-- ==== Sys2Proof/Word.lean ====
section
/-! DEFINITION. The word types of HX711-BBR (spec/00_scope.md R8: register values are unsigned bit vectors of the
stated width; bit 0 is the least significant bit). -/

namespace Sys2Proof

/-- One bit: a line level, a one-bit register or a one-bit port. -/
abbrev Bit := BitVec 1

/-- A byte: an element of `BY` or `RAW`, an argument, a gain selector, `RSPD`. -/
abbrev Byte := BitVec 8

/-- The command word on the port `cmd` (R60): 12 bits, carried whole (R46). -/
abbrev CmdWord := BitVec 12

/-- The gain code held in `GAIN` (R18). -/
abbrev GainCode := BitVec 2

/-- The code of a refusal (`ERR`, `RSPE`; R23, R77). -/
abbrev ErrCode := BitVec 2

/-- The 24-bit word assembled from the three result bytes (R121). -/
abbrev SampleWord := BitVec 24

end Sys2Proof
end

