-- ==== Sys2Proof/Config.lean ====
section
/-! DEFINITION. What an instance of the block fixes (spec/00_scope.md R7), the levels on its input ports
(spec/10_state.md R26), and the free values: constants with no body, so that no proof can see a value of one. -/

namespace Sys2Proof

/-- The named parameters of an instance (R7).  Each is fixed for the life of the instance: no step changes one.
`F_CLK` is a positive real number of hertz in R7; here it is the positive rational `fClkNum / fClkDen`
(DESIGN CHOICE, safe: log 13), which only `Params.legal` reads. -/
structure Params where
  /-- `F_CLK`, numerator in hertz -/
  fClkNum : Nat
  /-- `F_CLK`, denominator -/
  fClkDen : Nat
  /-- `T_HI`: clock periods the clock line is high in a pulse -/
  tHi : Nat
  /-- `T_LO`: clock periods from the falling edge of a pulse to the sample -/
  tLo : Nat
  /-- `T_HOLD`: clock periods of the hold of PWRDN and of PWRUP -/
  tHold : Nat
  /-- `VALUE_W`: width of the output `value` -/
  valueW : Nat
  /-- `WCNT_W`: width of the wait counter -/
  wcntW : Nat
deriving DecidableEq, Repr

/-- The largest value any action loads into `WCNT` (R14): `max(T_HI, T_LO, T_HOLD) − 1`. -/
def Params.maxWait (p : Params) : Nat := max (max p.tHi p.tLo) p.tHold - 1

/-- The types and ranges of R7: `T_HI`, `T_LO`, `T_HOLD` at least 1, `F_CLK` positive,
`T_HOLD / F_CLK ≥ 100 µs` (in whole numbers: `F_CLK ≤ 10000 · T_HOLD`), `VALUE_W` at least 24, and `WCNT_W` wide
enough for every value loaded into the wait counter. -/
abbrev Params.legal (p : Params) : Prop :=
  1 ≤ p.tHi ∧ 1 ≤ p.tLo ∧ 1 ≤ p.tHold ∧
  0 < p.fClkNum ∧ 0 < p.fClkDen ∧ p.fClkNum ≤ 10000 * p.tHold * p.fClkDen ∧
  24 ≤ p.valueW ∧ p.maxWait < 2 ^ p.wcntW

/-- The instance `State.reset` carries: the defaults of R7 (`T_HI` = `T_LO` = 1, `VALUE_W` = 32, the smallest
`WCNT_W`), and for the two parameters R7 leaves OPEN `T_HOLD` = 1 ("1 is legal for a model that has no time") with the
fastest clock that allows it, 10 kHz (DESIGN CHOICE: log 2).  No statement rests on these: every statement about the
machine holds for the parameters of any state. -/
def Params.default : Params :=
  { fClkNum := 10000, fClkDen := 1, tHi := 1, tLo := 1, tHold := 1, valueW := 32, wcntW := 0 }

/-- The levels on the input ports at one step (R26); `clk` itself is the step. -/
structure Input where
  /-- `rst`, synchronous, active high -/
  rst : Bit
  /-- `cmd_valid` -/
  cmdValid : Bit
  /-- `cmd` -/
  cmd : CmdWord
  /-- `dout`, the data line -/
  dout : Bit
deriving DecidableEq, Repr

/-- The level of `rst` at a step nothing is scripted for: free (log 1). -/
opaque Config.freeRst : Nat → Bit

/-- The level of `cmd_valid` at a step nothing is scripted for: free (log 1). -/
opaque Config.freeCmdValid : Nat → Bit

/-- The word on `cmd` at a step nothing is scripted for: free (log 1). -/
opaque Config.freeCmd : Nat → CmdWord

/-- The level of `dout` at a step nothing is scripted for: "an unconstrained oracle draw" (R42): free (log 1). -/
opaque Config.freeDout : Nat → Bit

/-- `GainSel(0)`, to which the spec gives no value (R63; spec/93_implementation_defined.md U3): free (log 5). -/
opaque Config.gainSelOfZero : Nat → Byte

/-- The input levels of a step nothing is scripted for. -/
def Input.free (n : Nat) : Input :=
  { rst := Config.freeRst n, cmdValid := Config.freeCmdValid n, cmd := Config.freeCmd n, dout := Config.freeDout n }

end Sys2Proof
end

