-- ==== Sys2Proof/Machine/State.lean ====
section
/-! DEFINITION. The state of the block (spec/10_state.md R10 to R24), its value after reset (R29), and the reasons a
step may stop (there is none: spec/40_read.md R90, "It is total"). -/

namespace Sys2Proof.Machine

/-- The sequencer state `ST` (R12): the action performed at the next step that finds `WCNT` = 0. -/
inductive Seq where
  /-- accept a command if one is offered -/
  | idle
  /-- read the data line, leave when it is 0 -/
  | poll
  /-- drive the clock line high -/
  | hi
  /-- drive the clock line low -/
  | lo
  /-- read the data line, shift, count -/
  | smp
  /-- keep or drop the sample, respond -/
  | fin
  /-- power down: drive the clock line low -/
  | pdLo
  /-- power down: drive the clock line high, start the hold -/
  | pdHi
  /-- power down: mark Down, respond -/
  | pdEnd
  /-- power up: drive the clock line low, start the hold -/
  | puLo
  /-- power up: mark Up, then respond or start a flush read -/
  | puEnd
deriving DecidableEq, Repr

/-- A line event (R8): one `LineGet` with the value it returned, or one `LineSet` with the level it drove. -/
inductive LineEvent where
  | get (d : Bit)
  | set (v : Bit)
deriving DecidableEq, Repr

/-- Three bytes, element 0 first: the shape of `BY[0..2]` and of `RAW[0..2]` (R16, R17). -/
structure Bytes3 where
  b0 : Byte
  b1 : Byte
  b2 : Byte
deriving DecidableEq, Repr

/-- The state.  The fields down to `rspD` are the registers of R10, all of them and nothing else.  The last four are the
model's own: the instance's parameters and the input levels to come (which R27 says are not registers; the step of the
host's interface has no other argument to carry them), a count of steps that indexes the free values, and the trace. -/
structure State where
  /-- `ST` (R12) -/
  st : Seq
  /-- `PCNT` (R13) -/
  pcnt : BitVec 5
  /-- `WCNT` (R14), below `2^WCNT_W` (log 3) -/
  wcnt : Nat
  /-- `LATCH` (R15) -/
  latch : Bit
  /-- `BY[0..2]` (R16) -/
  byReg : Bytes3
  /-- `RAW[0..2]` (R17) -/
  raw : Bytes3
  /-- `GAIN` (R18) -/
  gain : GainCode
  /-- `BITORD` (R19) -/
  bitOrd : Bit
  /-- `BYTEORD` (R20) -/
  byteOrd : Bit
  /-- `PWR` (R21): 0 Up, 1 Down -/
  pwr : Bit
  /-- `SCK` (R22) -/
  sck : Bit
  /-- `ERR` (R23) -/
  err : ErrCode
  /-- `RSPV` (R24) -/
  rspV : Bit
  /-- `RSPE` (R24) -/
  rspE : ErrCode
  /-- `RSPD` (R24) -/
  rspD : Byte
  /-- the instance's parameters (R7); no step changes them (DESIGN CHOICE to hold them here: log 2) -/
  params : Params
  /-- the input levels of the coming steps, soonest first (DESIGN CHOICE: log 1) -/
  inputs : List Input
  /-- the number of steps taken, the index of the free values (DESIGN CHOICE: log 1) -/
  cycle : Nat
  /-- the line events so far, oldest first (R8, R44; log 4) -/
  trace : List LineEvent
deriving DecidableEq, Repr

/-- The machine right after reset: the table of R29, with the default instance, nothing scripted, no event. -/
def State.reset : State :=
  { st := .idle, pcnt := 0#5, wcnt := 0, latch := 0#1,
    byReg := { b0 := 0#8, b1 := 0#8, b2 := 0#8 }, raw := { b0 := 0#8, b1 := 0#8, b2 := 0#8 },
    gain := 1#2, bitOrd := 0#1, byteOrd := 0#1, pwr := 0#1, sck := 0#1, err := 0#2,
    rspV := 0#1, rspE := 0#2, rspD := 0#8,
    params := Params.default, inputs := [], cycle := 0, trace := [] }

/-- Why a step stops with a fault.  Nobody raises one: R90, "It is total: it gives a next state for every state and
every input", so the type has no constructor (log 10). -/
inductive Fault where
deriving DecidableEq, Repr

/-- Why a command has no meaning. -/
inductive Refusal where
  /-- raised by an arm of `exec` for a command not modelled yet; safe: the run stops.  No arm raises it now. -/
  | notModelled (mnemonic : String)
deriving DecidableEq, Repr

end Sys2Proof.Machine
end

