-- ==== Sys2Proof/Machine/Operands.lean ====
section
/-! DEFINITION. What the operands of the commands stand for: the gain selector and the gain code (spec/30_encoding.md
R62, R63), and the place of each sample in the word (R67 to R69). -/

namespace Sys2Proof.Machine

/-- `GainCode(sel)` (R62): 128 gives 1, 64 gives 3, 32 gives 2, every other selector gives 1. -/
def gainCode (sel : Byte) : GainCode :=
  if sel = 128#8 then 1#2
  else if sel = 64#8 then 3#2
  else if sel = 32#8 then 2#2
  else 1#2

/-- `GainSel(code)` (R63); code 0 has no selector, `free` stands for it (U3, log 5). -/
def gainSel (free : Byte) (code : GainCode) : Byte :=
  if code = 1#2 then 128#8
  else if code = 2#2 then 32#8
  else if code = 3#2 then 64#8
  else free

/-- The pulses of a frame (R64, R74): `24 + GAIN`. -/
def framePulses (g : GainCode) : Nat := 24 + g.toNat

/-- One shift of the sampler (R98): with bit order 0 the new bit enters at bit 0, with bit order 1 at bit 7. -/
def shiftByte (order d : Bit) (b : Byte) : Byte :=
  if order = 0#1 then (b <<< 1) ||| d.zeroExtend 8
  else (b >>> 1) ||| (d.zeroExtend 8 <<< 7)

/-- The RawSample in returned order (R68): the bytes as read for byte order 0, reversed for byte order 1. -/
def orderBytes (order : Bit) (b : Bytes3) : Bytes3 :=
  if order = 0#1 then b else { b0 := b.b2, b1 := b.b1, b2 := b.b0 }

/-- `Pos(k)` (R69): the bit of `word` that sample `d[k]` becomes. -/
def samplePos (byteOrd bitOrd : Bit) (k : Nat) : Nat :=
  8 * (2 - (if byteOrd = 0#1 then k / 8 else 2 - k / 8)) + (if bitOrd = 0#1 then 7 - k % 8 else k % 8)

end Sys2Proof.Machine
end

