-- ==== Sys2Proof/Machine/Ops.lean ====
section
/-! DEFINITION. The operations every arm of the step is made of (spec/40_read.md R90): the input ports, the two line
primitives, starting a read, the sampler's shift, the wait counter, the response, the refusal (the block's exception
entry; there is no return: spec/60_exceptions.md R152, R157), and reset. -/

namespace Sys2Proof.Machine

/-- The input levels at the `n`-th step from `s` (0 is the next step): scripted, or free beyond the script. -/
def State.inputAt (s : State) (n : Nat) : Input :=
  match s.inputs[n]? with
  | some i => i
  | none => Input.free (s.cycle + n)

/-- The input levels at the next step. -/
def State.input (s : State) : Input := s.inputAt 0

/-- The step has looked at its input levels: the next step sees the next ones. -/
def advance (s : State) : State := { s with inputs := s.inputs.tail, cycle := s.cycle + 1 }

/-- What every step without reset begins with (R90): its inputs taken, and `RSPV <- 0`, the default that `Complete`
overrides. -/
def beginStep (s : State) : State := { advance s with rspV := 0#1 }

/-- The trace event of `LineGet()` (R42): the value of `dout` is recorded; no register changes. -/
def lineGet (d : Bit) (s : State) : State := { s with trace := s.trace ++ [.get d] }

/-- `LineSet(v)` (R43): `SCK <- v`, recorded also when `SCK` is `v` already (R44). -/
def lineSet (v : Bit) (s : State) : State := { s with sck := v, trace := s.trace ++ [.set v] }

/-- `ST <- target` (R8). -/
def goto (target : Seq) (s : State) : State := { s with st := target }

/-- `WCNT <- t − 1` (R14, R96, R97, R142, R145). -/
def loadWait (t : Nat) (s : State) : State := { s with wcnt := t - 1 }

/-- The stall (R93): `WCNT <- WCNT − 1`. -/
def stall (s : State) : State := { s with wcnt := s.wcnt - 1 }

/-- `StartRead(l)` (R91). -/
def startRead (l : Bit) (s : State) : State :=
  { s with latch := l, pcnt := 0#5, byReg := { b0 := 0#8, b1 := 0#8, b2 := 0#8 }, st := .poll }

/-- The working bytes with the sample `d` shifted into byte `j` (R98); there are the bytes 0, 1, 2 only. -/
def shiftInto (order : Bit) (j : Nat) (d : Bit) (b : Bytes3) : Bytes3 :=
  match j with
  | 0 => { b with b0 := shiftByte order d b.b0 }
  | 1 => { b with b1 := shiftByte order d b.b1 }
  | 2 => { b with b2 := shiftByte order d b.b2 }
  | _ => b

/-- `PCNT <- PCNT + 1` (R98). -/
def countPulse (s : State) : State := { s with pcnt := s.pcnt + 1#5 }

/-- `Complete(e, d)` (R155): the response, and the sequencer back at `IDLE`. -/
def complete (e : ErrCode) (d : Byte) (s : State) : State :=
  { s with rspV := 1#1, rspE := e, rspD := d, st := .idle }

/-- `ERR_ILLEGAL`, code 1 (R151). -/
def errIllegal : ErrCode := 1#2

/-- `ERR_SCK_HIGH`, code 2 (R150). -/
def errSckHigh : ErrCode := 2#2

/-- `ERR` keeps the first refusal since reset (R23, R152). -/
def recordErr (c : ErrCode) (s : State) : State := { s with err := if s.err = 0#2 then c else s.err }

/-- `raise Refuse(code)` (R152), "the whole of trap entry": the first code is kept in `ERR`, the response carries this
one.  Nothing is saved and there is no return (R157). -/
def refuse (c : ErrCode) (s : State) : State := complete c 0#8 (recordErr c s)

/-- A step with `rst` = 1 (R170): every register takes its reset value (R29); it makes no line event.  The instance's
parameters, the inputs to come and the trace so far are not registers and stay. -/
def resetRegs (s : State) : State :=
  { State.reset with params := s.params, inputs := s.inputs, cycle := s.cycle, trace := s.trace }

end Sys2Proof.Machine
end

