-- ==== Sys2Proof/Machine/ConfigCommands.lean ====
section
/-! DEFINITION. The configuration commands (spec/42_config.md): SETGAIN, GETGAIN, SETFMT. -/

namespace Sys2Proof.Machine

/-- `GAIN <- c`. -/
def writeGain (c : GainCode) (s : State) : State := { s with gain := c }

/-- `BYTEORD <- y; BITORD <- b`. -/
def writeFormat (y b : Bit) (s : State) : State := { s with byteOrd := y, bitOrd := b }

/-- SETGAIN, at the accepting step (R130): refused while the clock line is high, and then `GAIN` is not written; else
the gain code is written and a flush read starts. -/
def execSetgain (sel : Byte) (s : State) : Host.Outcome State Fault Refusal :=
  if s.sck ≠ 0#1 then .next (refuse errSckHigh s)
  else .next (startRead 0#1 (writeGain (gainCode sel) s))

/-- GETGAIN (R131): completes at once with the selector of the gain code. -/
def execGetgain (s : State) : Host.Outcome State Fault Refusal :=
  .next (complete 0#2 (gainSel (Config.gainSelOfZero s.cycle) s.gain) s)

/-- SETFMT (R132): writes the two flags and completes at once. -/
def execSetfmt (byteOrd bitOrd : Bit) (s : State) : Host.Outcome State Fault Refusal :=
  .next (complete 0#2 0#8 (writeFormat byteOrd bitOrd s))

end Sys2Proof.Machine
end

