-- ==== Sys2Proof/Machine/Power.lean ====
section
/-! DEFINITION. The power commands and the arms of their sequences (spec/43_power.md). -/

namespace Sys2Proof.Machine

/-- `PWR <- p`: 0 Up, 1 Down (R21). -/
def writePwr (p : Bit) (s : State) : State := { s with pwr := p }

/-- PWRDN, at the accepting step (R140): accepted in either power state. -/
def execPwrdn (s : State) : Host.Outcome State Fault Refusal := .next (goto .pdLo s)

/-- PWRUP, at the accepting step (R144): accepted in either power state. -/
def execPwrup (s : State) : Host.Outcome State Fault Refusal := .next (goto .puLo s)

/-- `PD_LO` (R141): clock line low, no wait after it. -/
def doPdLo (s : State) : State := goto .pdHi (lineSet 0#1 s)

/-- `PD_HI` (R142): clock line high, and the hold starts. -/
def doPdHi (s : State) : State := goto .pdEnd (loadWait s.params.tHold (lineSet 1#1 s))

/-- `PD_END` (R143): the block is Down; the clock line stays high. -/
def doPdEnd (s : State) : State := complete 0#2 0#8 (writePwr 1#1 s)

/-- `PU_LO` (R145): clock line low, and the hold starts. -/
def doPuLo (s : State) : State := goto .puEnd (loadWait s.params.tHold (lineSet 0#1 s))

/-- `PU_END` (R146): the block is Up; a flush read follows if the gain code is not 1. -/
def doPuEnd (s : State) : State :=
  if s.gain ≠ 1#2 then startRead 0#1 (writePwr 0#1 s) else complete 0#2 0#8 (writePwr 0#1 s)

end Sys2Proof.Machine
end

