-- ==== Sys2Proof/Machine/Read.lean ====
section
/-! DEFINITION. The READ command and the arms of the read sequence (spec/40_read.md R92, R95 to R100). -/

namespace Sys2Proof.Machine

/-- READ, at the accepting step (R92): refused while the clock line is high, else a read whose sample is kept. -/
def execRead (s : State) : Host.Outcome State Fault Refusal :=
  if s.sck ≠ 0#1 then .next (refuse errSckHigh s) else .next (startRead 1#1 s)

/-- `POLL` (R95): one `LineGet()`; 0 means ready. -/
def doPoll (d : Bit) (s : State) : State :=
  goto (if d = 0#1 then .hi else .poll) (lineGet d s)

/-- `HI` (R96): rising edge of a pulse. -/
def doHi (s : State) : State := goto .lo (loadWait s.params.tHi (lineSet 1#1 s))

/-- `LO` (R97): falling edge of a pulse. -/
def doLo (s : State) : State := goto .smp (loadWait s.params.tLo (lineSet 0#1 s))

/-- The sample of `SMP` (R98): a data bit is shifted into byte `PCNT div 8` (`ShiftIn` of R90), the answer to a gain
pulse is dropped (R105). -/
def takeSample (d : Bit) (s : State) : State :=
  { s with byReg := if s.pcnt.toNat < 24 then shiftInto s.bitOrd (s.pcnt.toNat / 8) d s.byReg else s.byReg }

/-- Where `SMP` goes (R99): `FIN` when the count after this pulse is `24 + GAIN`, else the next pulse. -/
def afterSample (s : State) : Seq := if s.pcnt.toNat + 1 = framePulses s.gain then .fin else .hi

/-- `SMP` (R98, R99): one `LineGet()`, the sample, the count, and the end of the frame. -/
def doSmp (d : Bit) (s : State) : State :=
  goto (afterSample s) (countPulse (takeSample d (lineGet d s)))

/-- The result registers after a read (R100): written when `LATCH` = 1, in the order of the byte order flag. -/
def latchSample (s : State) : State :=
  { s with raw := if s.latch = 1#1 then orderBytes s.byteOrd s.byReg else s.raw }

/-- `FIN` (R100): keep or drop the sample, respond. -/
def doFin (s : State) : State := complete 0#2 0#8 (latchSample s)

end Sys2Proof.Machine
end

