-- ==== Sys2Proof/Syntax.lean ====
section
/-! DEFINITION. The commands of the block (spec/30_encoding.md R60, R70): one constructor per row of the opcode table,
with every bit of the argument field kept as an operand, the ignored ones too (R72; log 8). -/

namespace Sys2Proof

/-- A command (the spec's "instruction", R2). -/
inductive Instr where
  /-- `READ`, opcode 0x1 (R92); the argument is ignored -/
  | read (unused : Byte)
  /-- `SETGAIN sel`, opcode 0x2 (R130) -/
  | setgain (sel : Byte)
  /-- `GETGAIN`, opcode 0x3 (R131); the argument is ignored -/
  | getgain (unused : Byte)
  /-- `SETFMT`, opcode 0x4 (R132): `arg[7:2]` ignored, `arg[1]` byte order, `arg[0]` bit order -/
  | setfmt (unused : BitVec 6) (byteOrd bitOrd : Bit)
  /-- `PWRDN`, opcode 0x5 (R140); the argument is ignored -/
  | pwrdn (unused : Byte)
  /-- `PWRUP`, opcode 0x6 (R144); the argument is ignored -/
  | pwrup (unused : Byte)
deriving DecidableEq, Repr

/-- The pseudo-command `RESET` (R76, R147): `PWRDN` then `PWRUP`. -/
def pseudoReset : List Instr := [.pwrdn 0, .pwrup 0]

/-- The pseudo-command `READ_LONG` (R76, R125): `READ`; its result is then the output `value`. -/
def pseudoReadLong : List Instr := [.read 0]

/-- The commands of the pseudo-command `CONSTRUCT g` (R76, R173): after one step with `rst` = 1, `SETGAIN g`. -/
def pseudoConstruct (g : Byte) : List Instr := [.setgain g]

end Sys2Proof
end

