-- ==== Sys2Proof/Machine/Dispatch.lean ====
section
/-! DEFINITION. The dispatch of an accepted command (spec/40_read.md R90, `Dispatch`): one arm per command.  The ignored
argument bits reach no meaning (spec/30_encoding.md R72). -/

namespace Sys2Proof.Machine

def exec (i : Instr) (s : State) : Host.Outcome State Fault Refusal :=
  match i with
  | .read _ => Sys2Proof.Machine.execRead s
  | .setgain sel => Sys2Proof.Machine.execSetgain sel s
  | .getgain _ => Sys2Proof.Machine.execGetgain s
  | .setfmt _ y b => Sys2Proof.Machine.execSetfmt y b s
  | .pwrdn _ => Sys2Proof.Machine.execPwrdn s
  | .pwrup _ => Sys2Proof.Machine.execPwrup s

end Sys2Proof.Machine
end

