-- ==== Sys2Proof/WellFormed.lean ====
section
/-! DEFINITION. The form a host should write a command in (spec/30_encoding.md R72: "A host should write them as 0";
R75: "The word for a command with no argument is written with `arg` = 0").  The operands' widths are in their types.
The machine runs the other forms as well: "no value of them is refused" (R72), so no step looks at this check. -/

namespace Sys2Proof

/-- Every ignored bit of the argument is 0 (R72). -/
def Instr.wellFormed : Instr → Bool
  | .read u => u == 0#8
  | .setgain _ => true
  | .getgain u => u == 0#8
  | .setfmt u _ _ => u == 0#6
  | .pwrdn u => u == 0#8
  | .pwrup u => u == 0#8

end Sys2Proof
end

