-- ==== Sys2Proof/Decode.lean ====
section
/-! DEFINITION. Decoding and encoding of the command word (spec/30_encoding.md R60, R61, R70, R71).  "A decoder tells
commands apart by `op` alone" (R60); the ten reserved opcodes are rejected by name. -/

namespace Sys2Proof

/-- Why a word is no command. -/
inductive DecodeError where
  /-- the opcode is 0x0 or 0x7 to 0xF (R71); the block answers `ERR_ILLEGAL` (R151) -/
  | reservedOpcode (op : BitVec 4)
deriving DecidableEq, Repr

/-- `cmd[11:8]` (R60). -/
def opField (w : CmdWord) : BitVec 4 := w.extractLsb' 8 4

/-- `cmd[7:0]` (R60). -/
def argField (w : CmdWord) : Byte := w.extractLsb' 0 8

/-- The command a word stands for (R70), total on every word. -/
def decode (w : CmdWord) : Except DecodeError Instr :=
  if opField w = 0x1#4 then .ok (.read (argField w))
  else if opField w = 0x2#4 then .ok (.setgain (argField w))
  else if opField w = 0x3#4 then .ok (.getgain (argField w))
  else if opField w = 0x4#4 then
    .ok (.setfmt ((argField w).extractLsb' 2 6) ((argField w).extractLsb' 1 1) ((argField w).extractLsb' 0 1))
  else if opField w = 0x5#4 then .ok (.pwrdn (argField w))
  else if opField w = 0x6#4 then .ok (.pwrup (argField w))
  else .error (.reservedOpcode (opField w))

/-- The word of a command (R60, R70): the opcode above the argument. -/
def encode : Instr → CmdWord
  | .read u => 0x1#4 ++ u
  | .setgain sel => 0x2#4 ++ sel
  | .getgain u => 0x3#4 ++ u
  | .setfmt u y b => 0x4#4 ++ (u ++ y ++ b : BitVec 8)
  | .pwrdn u => 0x5#4 ++ u
  | .pwrup u => 0x6#4 ++ u

/-- A row of the opcode table (R70; spec/opcode_table.json): the words `w` with `w &&& mask = pattern`. -/
structure OpRow where
  mnemonic : String
  pattern : CmdWord
  mask : CmdWord
deriving DecidableEq, Repr

/-- The row of the opcode table a command belongs to. -/
def Instr.row : Instr → OpRow
  | .read _ => { mnemonic := "READ", pattern := 0x100#12, mask := 0xF00#12 }
  | .setgain _ => { mnemonic := "SETGAIN", pattern := 0x200#12, mask := 0xF00#12 }
  | .getgain _ => { mnemonic := "GETGAIN", pattern := 0x300#12, mask := 0xF00#12 }
  | .setfmt _ _ _ => { mnemonic := "SETFMT", pattern := 0x400#12, mask := 0xF00#12 }
  | .pwrdn _ => { mnemonic := "PWRDN", pattern := 0x500#12, mask := 0xF00#12 }
  | .pwrup _ => { mnemonic := "PWRUP", pattern := 0x600#12, mask := 0xF00#12 }

/-- The 12 bits the port `cmd` carries of a word given as a number: the bits from `nbits` up are 0, and the port has no
bit above 11 (R60; log 6). -/
def portWord (nbits w : Nat) : CmdWord := BitVec.ofNat 12 (w % 2 ^ nbits)

/-- What the decoder reads from a word of the opcode table (none for a reserved opcode). -/
def decodeTableWord (nbits w : Nat) : Option Instr :=
  match decode (portWord nbits w) with
  | .ok i => some i
  | .error _ => none

end Sys2Proof
end

