-- ==== Sys2Proof/Machine/Sequencer.lean ====
section
/-! DEFINITION. What one step does, by priority (spec/60_exceptions.md R156), and the actions of the sequencer states
other than `IDLE` (spec/40_read.md R90). -/

namespace Sys2Proof.Machine

/-- What one step does. -/
inductive StepKind where
  /-- `rst` = 1 (R170) -/
  | reset
  /-- `WCNT ≠ 0` (R93) -/
  | stall
  /-- `IDLE` with `cmd_valid` = 0 (R94) -/
  | nothing
  /-- `IDLE` with `cmd_valid` = 1: the word is accepted (R94) -/
  | accept (w : CmdWord)
  /-- any other sequencer state: its action -/
  | act
deriving DecidableEq, Repr

/-- The priority of R156: reset, then stall, then the action of `ST`. -/
def stepKind (i : Input) (s : State) : StepKind :=
  if i.rst = 1#1 then .reset
  else if s.wcnt ≠ 0 then .stall
  else if s.st = .idle then (if i.cmdValid = 1#1 then .accept i.cmd else .nothing)
  else .act

/-- The action of the sequencer state (R90); `IDLE` has none of its own. -/
def act (i : Input) (s : State) : State :=
  match s.st with
  | .idle => s
  | .poll => doPoll i.dout s
  | .hi => doHi s
  | .lo => doLo s
  | .smp => doSmp i.dout s
  | .fin => doFin s
  | .pdLo => doPdLo s
  | .pdHi => doPdHi s
  | .pdEnd => doPdEnd s
  | .puLo => doPuLo s
  | .puEnd => doPuEnd s

/-- The host offers `w` at the next step, to a block that is ready to take it: the sequencer at `IDLE`, no wait, and the
input levels `cmd_valid` = 1, `cmd` = `w`, `rst` = 0 ahead of the ones already scripted (`dout` is not looked at). -/
def offerWord (w : CmdWord) (s : State) : State :=
  { s with st := .idle, wcnt := 0, inputs := { rst := 0#1, cmdValid := 1#1, cmd := w, dout := 0#1 } :: s.inputs }

end Sys2Proof.Machine
end

