-- ==== Sys2Proof/Machine/Step.lean ====
section
/-! DEFINITION. `Step`, the one transition function of the block: one rising edge of `clk` (spec/10_state.md R11,
spec/40_read.md R90). -/

namespace Sys2Proof.Machine

/-- A command word accepted at `IDLE` (R94): the command it stands for is dispatched; a reserved opcode is refused with
`ERR_ILLEGAL` (R151). -/
def dispatchWord (w : CmdWord) (s : State) : Host.Outcome State Fault Refusal :=
  match decode w with
  | .ok i => exec i s
  | .error _ => .next (refuse errIllegal s)

/-- One step (R90). -/
def step (s : State) : Host.Outcome State Fault Refusal :=
  match stepKind s.input s with
  | .reset => .next (resetRegs (advance s))
  | .stall => .next (stall (beginStep s))
  | .nothing => .next (beginStep s)
  | .accept w => dispatchWord w (beginStep s)
  | .act => .next (act s.input (beginStep s))

/-- `s` with a command word offered at the very next step (log 6). -/
def State.withFetchWord (s : State) (nbits w : Nat) : State := offerWord (portWord nbits w) s

end Sys2Proof.Machine
end

