-- ==== Sys2Proof/Machine/Decoder.lean ====
section
/-! DEFINITION. The combinational part (spec/41_decode.md): word assembly and the two's-complement decoder. -/

namespace Sys2Proof.Machine

/-- `Decode24(u)` (R120): `−(u & 0x800000) + (u & 0x7FFFFF)`, on mathematical integers (R123). -/
def decode24 (u : SampleWord) : Int :=
  -((u &&& 0x800000#24).toNat : Int) + ((u &&& 0x7FFFFF#24).toNat : Int)

/-- `RAW[0] :: RAW[1] :: RAW[2]` (R121), always big-endian. -/
def wordOf (b : Bytes3) : SampleWord := b.b0 ++ b.b1 ++ b.b2

/-- The port `word` (R121). -/
def wordPort (s : State) : SampleWord := wordOf s.raw

/-- The port `value` (R122): `sext_VALUE_W(word)`. -/
def valuePort (s : State) : BitVec s.params.valueW := (wordPort s).signExtend s.params.valueW

end Sys2Proof.Machine
end

