-- ==== Sys2Proof/Machine/Flags.lean ====
section
/-! DEFINITION. The output ports (spec/10_state.md R25: "Every output is a function of the registers alone").  The block
has no arithmetic flags (spec/41_decode.md R123); what it shows of itself are these.  `word` and `value` are in
`Machine/Decoder.lean`. -/

namespace Sys2Proof.Machine

/-- The port `sck`: the clock line. -/
def sckPort (s : State) : Bit := s.sck

/-- The port `cmd_ready`: 1 if `ST = IDLE`, else 0. -/
def cmdReady (s : State) : Bit := if s.st = .idle then 1#1 else 0#1

/-- The port `busy`: 1 if `ST ≠ IDLE`, else 0. -/
def busy (s : State) : Bit := if s.st = .idle then 0#1 else 1#1

/-- The port `rsp_valid`. -/
def rspValidPort (s : State) : Bit := s.rspV

/-- The port `rsp_err`. -/
def rspErrPort (s : State) : ErrCode := s.rspE

/-- The port `rsp_data`. -/
def rspDataPort (s : State) : Byte := s.rspD

/-- The ports `raw0`, `raw1`, `raw2`. -/
def rawPorts (s : State) : Bytes3 := s.raw

/-- The port `gain_code`. -/
def gainCodePort (s : State) : GainCode := s.gain

/-- The port `bitord`. -/
def bitOrdPort (s : State) : Bit := s.bitOrd

/-- The port `byteord`. -/
def byteOrdPort (s : State) : Bit := s.byteOrd

/-- The port `pwr`: 0 Up, 1 Down. -/
def pwrPort (s : State) : Bit := s.pwr

/-- The port `err`. -/
def errPort (s : State) : ErrCode := s.err

end Sys2Proof.Machine
end

