-- ==== Sys2Proof/Safety.lean ====
section
/-! DEFINITION. The terms claims about the block are made in: runs, the states a run can reach, the laws the spec says
every reachable state meets (spec/10_state.md R28), what a whole command does on the lines and how long it takes
(spec/40_read.md R101, R104), and the assumptions about the chip that a claim may take by name (spec/20_memory.md R52
to R55). -/

namespace Sys2Proof.Machine

/-! ### Runs -/

/-- `k` steps of the machine. -/
def run (k : Nat) (s : State) : Host.Outcome State Fault Refusal := Host.Core.run Sys2Proof.core k s

/-- A start of the machine: every register at its reset value (R29, R171), in any legal instance and any environment. -/
def Initial (s : State) : Prop :=
  s.params.legal ∧
    s = { State.reset with params := s.params, inputs := s.inputs, cycle := s.cycle, trace := s.trace }

/-- The states reachable from reset by steps, whatever the inputs (R28). -/
inductive Reachable : State → Prop where
  | start {s : State} (h : Initial s) : Reachable s
  | next {s t : State} (h : Reachable s) (hs : step s = .next t) : Reachable t

/-- No command has been refused since reset (R157; spec/93_implementation_defined.md U4). -/
def NoRefusal (s : State) : Prop := s.err = 0#2

/-! ### The laws of R28 -/

/-- The sequencer states of a read (R12). -/
def Seq.inRead : Seq → Bool
  | .poll | .hi | .lo | .smp | .fin => true
  | .idle | .pdLo | .pdHi | .pdEnd | .puLo | .puEnd => false

/-- The eight items of R28. -/
structure StateLaws (s : State) : Prop where
  /-- item 1 -/
  gain : s.gain = 1#2 ∨ s.gain = 2#2 ∨ s.gain = 3#2
  /-- item 2 -/
  err : s.err = 0#2 ∨ s.err = 1#2 ∨ s.err = 2#2
  /-- item 3 -/
  idleWait : s.st = .idle → s.wcnt = 0
  /-- item 4 -/
  idleClock : s.st = .idle → s.sck = s.pwr
  /-- item 5 -/
  clockLow : s.st = .poll ∨ s.st = .hi ∨ s.st = .smp ∨ s.st = .fin → s.sck = 0#1
  /-- item 5 -/
  clockHigh : s.st = .lo → s.sck = 1#1
  /-- item 6 -/
  count : s.pcnt.toNat ≤ 27
  /-- item 6 -/
  countPoll : s.st = .poll → s.pcnt = 0#5
  /-- item 6 -/
  countPulses : s.st = .hi ∨ s.st = .lo ∨ s.st = .smp → s.pcnt.toNat < framePulses s.gain
  /-- item 6 -/
  countFin : s.st = .fin → s.pcnt.toNat = framePulses s.gain
  /-- item 7 -/
  clockPdHi : s.st = .pdHi → s.sck = 0#1
  /-- item 7 -/
  clockPdEnd : s.st = .pdEnd → s.sck = 1#1
  /-- item 7 -/
  clockPuEnd : s.st = .puEnd → s.sck = 0#1
  /-- item 8 -/
  response : s.rspV = 1#1 → s.st = .idle

/-- The invariant every step keeps: R28, and with it what makes it inductive: a read runs only in the Up state; the
instance is legal (R7); the wait counter fits its width (R14). -/
structure Inv (s : State) : Prop where
  laws : StateLaws s
  readUp : s.st.inRead = true → s.pwr = 0#1
  legal : s.params.legal
  wait : s.wcnt ≤ s.params.maxWait

/-! ### What the environment does over a run -/

/-- `rst` is 0 at the next `k` steps. -/
def NoReset (k : Nat) (s : State) : Prop := ∀ j < k, (s.inputAt j).rst = 0#1

/-- The host offers the command `i` at the `m`-th step: a word that stands for it, with `cmd_valid` = 1. -/
def Offers (i : Instr) (m : Nat) (s : State) : Prop :=
  (s.inputAt m).cmdValid = 1#1 ∧ decode (s.inputAt m).cmd = .ok i

/-- The host offers nothing at `k` steps from the `m`-th on. -/
def NoOffer (m k : Nat) (s : State) : Prop := ∀ j < k, (s.inputAt (m + j)).cmdValid = 0#1

/-- From the `m`-th step on, the data line answers 1 at `n` steps and then 0 at the next. -/
def ReadyAfter (m n : Nat) (s : State) : Prop :=
  (∀ j < n, (s.inputAt (m + j)).dout = 1#1) ∧ (s.inputAt (m + n)).dout = 0#1

/-! ### A read as a whole -/

/-- Steps of one pulse and its sample (R104): `T_HI + T_LO + 1`. -/
def pulseSteps (p : Params) : Nat := p.tHi + p.tLo + 1

/-- Steps of a read sequence from its first poll, with `n` polls answered 1 and gain code `g` (R104): the polls, the
pulses, and `FIN`. -/
def readSteps (p : Params) (g : GainCode) (n : Nat) : Nat := (n + 1) + framePulses g * pulseSteps p + 1

/-- The answer to the sample after pulse `k` of a read whose first poll is the `m`-th step: `a[k]` of R101. -/
def answer (m n : Nat) (s : State) (k : Nat) : Bit :=
  (s.inputAt (m + (n + 1) + k * pulseSteps s.params + (s.params.tHi + s.params.tLo))).dout

/-- The line events of a read (R101): `n` polls answered 1, one answered 0, then `LineSet(1)`, `LineSet(0)` and a
`LineGet` after each of the `24 + g` pulses. -/
def readTrace (n : Nat) (g : GainCode) (a : Nat → Bit) : List LineEvent :=
  List.replicate n (.get 1#1) ++ .get 0#1 ::
    (List.range (framePulses g)).flatMap (fun k => [.set 1#1, .set 0#1, .get (a k)])

/-- Byte `j` of three. -/
def byteAt (b : Bytes3) : Nat → Byte
  | 0 => b.b0
  | 1 => b.b1
  | _ => b.b2

/-- The working bytes hold the 24 samples `a[0] … a[23]` in the places R67 gives them. -/
def HoldsSamples (order : Bit) (a : Nat → Bit) (b : Bytes3) : Prop :=
  ∀ j < 3, ∀ i < 8,
    (byteAt b j).extractLsb' (if order = 0#1 then 7 - i else i) 1 = a (8 * j + i)

/-- The rising edges of the clock line in a list of line events. -/
def risingEdges (es : List LineEvent) : Nat := es.count (.set 1#1)

/-! ### The chip, as named assumptions (R52): premises of claims, never rules of the block -/

/-- `ENV_SHIFT` (R54): the answer after pulse `k` is bit `23 − k` of the sample `c`. -/
def EnvShift (c : SampleWord) (a : Nat → Bit) : Prop := ∀ k < 24, a k = c.extractLsb' (23 - k) 1

/-- `ENV_GAIN` (R55), with the frames numbered in order: `pulses f` is the number of pulses of frame `f` and
`gainOf f` the gain code the sample shifted out in it was converted at.  The pulses beyond 24 select the gain of the
next conversion. -/
def EnvGain (pulses : Nat → Nat) (gainOf : Nat → GainCode) : Prop :=
  ∀ f, 25 ≤ pulses f → pulses f ≤ 27 → pulses f = 24 + (gainOf (f + 1)).toNat

/-- `ENV_READY` (R53) for the wait that begins at the `m`-th step: the data line is at 0 at some step no more than `b`
steps later ("within a bounded time"; the bound is the environment's, none is built into the block: R182). -/
def EnvReady (m b : Nat) (s : State) : Prop := ∃ n ≤ b, (s.inputAt (m + n)).dout = 0#1

end Sys2Proof.Machine
end

