-- ==== Sys2Proof/Certificates/Slice0/Obligations.lean ====
section
/-! DEFINITION. The statements about HX711-BBR, for the provers.  Each docstring names the rules of `spec/` the
statement formalises.  Where a statement gives a next state as `{ s with … }`, everything not listed is unchanged: that
is its frame.  `inputs` and `cycle` are the model's own fields (log 1); the block has no memory (log 9). -/

open Sys2Proof Sys2Proof.Machine

/-! ### Encoding -/

/-- R60, R70, R72: decoding the word of a command gives the command back, with every bit of its argument. -/
def Obligations.DecodeOfEncodeIsTheCommand : Prop :=
  ∀ i : Instr, decode (encode i) = .ok i

/-- R60, R70: the other direction: a word that stands for a command is that command's word. -/
def Obligations.EncodeOfDecodeIsTheWord : Prop :=
  ∀ (w : CmdWord) (i : Instr), decode w = .ok i → encode i = w

/-- R70: the opcode map as match and mask, with the place of every argument bit. -/
def Obligations.OpcodeMapByMatchAndMask : Prop :=
  ∀ w : CmdWord,
    (w &&& 0xF00#12 = 0x100#12 ↔ decode w = .ok (.read (w.extractLsb' 0 8))) ∧
    (w &&& 0xF00#12 = 0x200#12 ↔ decode w = .ok (.setgain (w.extractLsb' 0 8))) ∧
    (w &&& 0xF00#12 = 0x300#12 ↔ decode w = .ok (.getgain (w.extractLsb' 0 8))) ∧
    (w &&& 0xF00#12 = 0x400#12 ↔
      decode w = .ok (.setfmt (w.extractLsb' 2 6) (w.extractLsb' 1 1) (w.extractLsb' 0 1))) ∧
    (w &&& 0xF00#12 = 0x500#12 ↔ decode w = .ok (.pwrdn (w.extractLsb' 0 8))) ∧
    (w &&& 0xF00#12 = 0x600#12 ↔ decode w = .ok (.pwrup (w.extractLsb' 0 8)))

/-- R75, R70: the words the spec writes out are the commands it writes them for. -/
def Obligations.SpecWordsDecode : Prop :=
  decode 0x100#12 = .ok (.read 0) ∧ decode 0x300#12 = .ok (.getgain 0) ∧
  decode 0x500#12 = .ok (.pwrdn 0) ∧ decode 0x600#12 = .ok (.pwrup 0) ∧
  decode 0x280#12 = .ok (.setgain 128) ∧ decode 0x240#12 = .ok (.setgain 64) ∧
  decode 0x220#12 = .ok (.setgain 32) ∧
  decode 0x400#12 = .ok (.setfmt 0 0 0) ∧ decode 0x401#12 = .ok (.setfmt 0 0 1) ∧
  decode 0x402#12 = .ok (.setfmt 0 1 0) ∧ decode 0x403#12 = .ok (.setfmt 0 1 1)

/-- R72: two words that agree in the opcode and in the argument bits the command uses do the same thing: no bit of READ,
GETGAIN, PWRDN and PWRUP, the bits 1 and 0 of SETFMT. -/
def Obligations.IgnoredArgumentBitsChangeNothing : Prop :=
  ∀ (w w' : CmdWord) (s : State), opField w = opField w' →
    (opField w = 0x1#4 ∨ opField w = 0x3#4 ∨ opField w = 0x5#4 ∨ opField w = 0x6#4 ∨
      (opField w = 0x4#4 ∧ w.extractLsb' 0 2 = w'.extractLsb' 0 2)) →
    dispatchWord w s = dispatchWord w' s

/-! ### The step -/

/-- R94, R90: at `IDLE`, with no wait and no reset, a step runs the command the offered word stands for, after taking its
inputs and clearing the response strobe; and so the step of `withFetchWord` (the queue of inputs and `withFetchWord` are
the model's choice: logs 1, 6, 7). -/
def Obligations.StepRunsTheDecodedCommand : Prop :=
  (∀ (s : State) (i : Instr), (s.inputAt 0).rst = 0#1 → s.st = .idle → s.wcnt = 0 → Offers i 0 s →
    step s = exec i { s with rspV := 0#1, inputs := s.inputs.tail, cycle := s.cycle + 1 }) ∧
  (∀ (s : State) (nbits w : Nat) (i : Instr), decodeTableWord nbits w = some i →
    step (s.withFetchWord nbits w) =
      exec i { s with st := .idle, wcnt := 0, rspV := 0#1, cycle := s.cycle + 1 })

/-- R71, R151: a reserved opcode accepted at `IDLE` is refused with `ERR_ILLEGAL`: no line event, and no register changes
but `ERR` (if 0), `RSPV`, `RSPE`, `RSPD`. -/
def Obligations.ReservedOpcodeIsRefused : Prop :=
  ∀ s : State, (s.inputAt 0).rst = 0#1 → s.st = .idle → s.wcnt = 0 → (s.inputAt 0).cmdValid = 1#1 →
    ((s.inputAt 0).cmd.extractLsb' 8 4 = 0x0#4 ∨ 0x7#4 ≤ (s.inputAt 0).cmd.extractLsb' 8 4) →
    step s = .next
      { s with err := if s.err = 0#2 then 1#2 else s.err
               rspV := 1#1, rspE := 1#2, rspD := 0#8, inputs := s.inputs.tail, cycle := s.cycle + 1 }

/-- R90 ("It is total"): every step answers a next state, in every state and for every input. -/
def Obligations.StepNeverStops : Prop := ∀ s : State, ∃ t, step s = .next t

/-- R29, R170: a step with `rst` = 1 gives every register its reset value, whatever the state and the other inputs; no
line event is made. -/
def Obligations.ResetStepSetsEveryRegister : Prop :=
  ∀ s : State, (s.inputAt 0).rst = 1#1 →
    ∃ t, step s = .next t ∧
      t = { st := .idle, pcnt := 0#5, wcnt := 0, latch := 0#1,
            byReg := { b0 := 0#8, b1 := 0#8, b2 := 0#8 }, raw := { b0 := 0#8, b1 := 0#8, b2 := 0#8 },
            gain := 1#2, bitOrd := 0#1, byteOrd := 0#1, pwr := 0#1, sck := 0#1, err := 0#2,
            rspV := 0#1, rspE := 0#2, rspD := 0#8,
            params := s.params, inputs := s.inputs.tail, cycle := s.cycle + 1, trace := s.trace } ∧
      wordPort t = 0#24 ∧ valuePort t = 0#_ ∧ cmdReady t = 1#1 ∧ busy t = 0#1

/-- R93: a stall writes `WCNT <- WCNT − 1` and `RSPV <- 0` and nothing else, whatever `ST` and the command port. -/
def Obligations.StallOnlyCountsDown : Prop :=
  ∀ s : State, (s.inputAt 0).rst = 0#1 → s.wcnt ≠ 0 →
    step s = .next { s with wcnt := s.wcnt - 1, rspV := 0#1, inputs := s.inputs.tail, cycle := s.cycle + 1 }

/-- R94: at `IDLE` with no command offered a step writes only `RSPV <- 0`. -/
def Obligations.IdleStepWithoutCommand : Prop :=
  ∀ s : State, (s.inputAt 0).rst = 0#1 → s.wcnt = 0 → s.st = .idle → (s.inputAt 0).cmdValid = 0#1 →
    step s = .next { s with rspV := 0#1, inputs := s.inputs.tail, cycle := s.cycle + 1 }

/-- R95: `POLL` makes one `LineGet()`; 0 leads to `HI`, 1 stays at `POLL`. -/
def Obligations.PollStep : Prop :=
  ∀ s : State, (s.inputAt 0).rst = 0#1 → s.wcnt = 0 → s.st = .poll →
    step s = .next
      { s with st := if (s.inputAt 0).dout = 0#1 then .hi else .poll
               rspV := 0#1, inputs := s.inputs.tail, cycle := s.cycle + 1
               trace := s.trace ++ [.get (s.inputAt 0).dout] }

/-- R96, R97: the two steps that move the clock line in a read: `HI` drives it high and loads the wait of the high phase,
`LO` drives it low and loads the wait before the sample; nothing else changes. -/
def Obligations.ClockEdgeSteps : Prop :=
  ∀ s : State, (s.inputAt 0).rst = 0#1 → s.wcnt = 0 →
    (s.st = .hi → step s = .next
      { s with st := .lo, sck := 1#1, wcnt := s.params.tHi - 1, rspV := 0#1, inputs := s.inputs.tail
               cycle := s.cycle + 1, trace := s.trace ++ [.set 1#1] }) ∧
    (s.st = .lo → step s = .next
      { s with st := .smp, sck := 0#1, wcnt := s.params.tLo - 1, rspV := 0#1, inputs := s.inputs.tail
               cycle := s.cycle + 1, trace := s.trace ++ [.set 0#1] })

/-- R96, R97: one pulse.  `HI` drives the clock line high, which stays so for `T_HI` clock periods; `LO` drives it low,
and the sample is taken `T_LO` periods after, with the clock low: the block is then at `SMP`, ready to act. -/
def Obligations.OnePulseOnTheClockLine : Prop :=
  ∀ s : State, s.params.legal → s.st = .hi → s.wcnt = 0 → NoReset (s.params.tHi + s.params.tLo) s →
    step s = .next { s with st := .lo, sck := 1#1, wcnt := s.params.tHi - 1, rspV := 0#1, inputs := s.inputs.tail
                            cycle := s.cycle + 1, trace := s.trace ++ [.set 1#1] } ∧
    (∀ j, 1 ≤ j → j ≤ s.params.tHi → ∃ t, run j s = .next t ∧ t.sck = 1#1 ∧ t.st = .lo) ∧
    (∀ j, s.params.tHi < j → j ≤ s.params.tHi + s.params.tLo →
      ∃ t, run j s = .next t ∧ t.sck = 0#1 ∧ t.st = .smp) ∧
    run (s.params.tHi + s.params.tLo) s = .next
      { s with st := .smp, sck := 0#1, wcnt := 0, rspV := 0#1
               inputs := s.inputs.drop (s.params.tHi + s.params.tLo)
               cycle := s.cycle + (s.params.tHi + s.params.tLo)
               trace := s.trace ++ [.set 1#1, .set 0#1] }

/-- R98, R99: `SMP` makes one `LineGet()`.  A data bit is shifted into byte `PCNT div 8` (at bit 0 for bit order 0, at
bit 7 for bit order 1), the other bytes keep their value, the answer to a gain pulse reaches no register; the count
rises by one and the frame ends when it reaches `24 + GAIN`. -/
def Obligations.SampleStep : Prop :=
  ∀ s : State, (s.inputAt 0).rst = 0#1 → s.wcnt = 0 → s.st = .smp →
    ∃ t, step s = .next t ∧
      t = { s with st := if s.pcnt.toNat + 1 = 24 + s.gain.toNat then .fin else .hi
                   pcnt := s.pcnt + 1#5, byReg := t.byReg
                   rspV := 0#1, inputs := s.inputs.tail, cycle := s.cycle + 1
                   trace := s.trace ++ [.get (s.inputAt 0).dout] } ∧
      (24 ≤ s.pcnt.toNat → t.byReg = s.byReg) ∧
      (s.pcnt.toNat < 24 → ∀ j < 3,
        byteAt t.byReg j =
          if j ≠ s.pcnt.toNat / 8 then byteAt s.byReg j
          else if s.bitOrd = 0#1 then (byteAt s.byReg j <<< 1) ||| (s.inputAt 0).dout.zeroExtend 8
          else (byteAt s.byReg j >>> 1) ||| ((s.inputAt 0).dout.zeroExtend 8 <<< 7))

/-- R100, R68: `FIN` copies the working bytes to the result registers if `LATCH` = 1, in the order of the byte order flag,
keeps the result registers if `LATCH` = 0, and completes without error. -/
def Obligations.FinishStep : Prop :=
  ∀ s : State, (s.inputAt 0).rst = 0#1 → s.wcnt = 0 → s.st = .fin →
    step s = .next
      { s with st := .idle
               raw := if s.latch = 1#1 then
                        (if s.byteOrd = 0#1 then s.byReg
                         else { b0 := s.byReg.b2, b1 := s.byReg.b1, b2 := s.byReg.b0 })
                      else s.raw
               rspV := 1#1, rspE := 0#2, rspD := 0#8, inputs := s.inputs.tail, cycle := s.cycle + 1 }

/-- R141, R142, R143: the three actions of a power-down. -/
def Obligations.PowerDownSteps : Prop :=
  ∀ s : State, (s.inputAt 0).rst = 0#1 → s.wcnt = 0 →
    (s.st = .pdLo → step s = .next
      { s with st := .pdHi, sck := 0#1, rspV := 0#1, inputs := s.inputs.tail, cycle := s.cycle + 1
               trace := s.trace ++ [.set 0#1] }) ∧
    (s.st = .pdHi → step s = .next
      { s with st := .pdEnd, sck := 1#1, wcnt := s.params.tHold - 1, rspV := 0#1, inputs := s.inputs.tail
               cycle := s.cycle + 1, trace := s.trace ++ [.set 1#1] }) ∧
    (s.st = .pdEnd → step s = .next
      { s with st := .idle, pwr := 1#1, rspV := 1#1, rspE := 0#2, rspD := 0#8, inputs := s.inputs.tail
               cycle := s.cycle + 1 })

/-- R145, R146: the two actions of a power-up; the second starts a flush read if the gain code is not 1. -/
def Obligations.PowerUpSteps : Prop :=
  ∀ s : State, (s.inputAt 0).rst = 0#1 → s.wcnt = 0 →
    (s.st = .puLo → step s = .next
      { s with st := .puEnd, sck := 0#1, wcnt := s.params.tHold - 1, rspV := 0#1, inputs := s.inputs.tail
               cycle := s.cycle + 1, trace := s.trace ++ [.set 0#1] }) ∧
    (s.st = .puEnd → s.gain = 1#2 → step s = .next
      { s with st := .idle, pwr := 0#1, rspV := 1#1, rspE := 0#2, rspD := 0#8, inputs := s.inputs.tail
               cycle := s.cycle + 1 }) ∧
    (s.st = .puEnd → s.gain ≠ 1#2 → step s = .next
      { s with st := .poll, pwr := 0#1, latch := 0#1, pcnt := 0#5, byReg := { b0 := 0#8, b1 := 0#8, b2 := 0#8 }
               rspV := 0#1, inputs := s.inputs.tail, cycle := s.cycle + 1 })

/-! ### The commands at the accepting step -/

/-- R92, R91: READ with the clock low starts a read whose sample is kept, and changes nothing else. -/
def Obligations.ReadStartsAKeptRead : Prop :=
  ∀ (u : Byte) (s : State), s.sck = 0#1 →
    exec (.read u) s = .next
      { s with st := .poll, latch := 1#1, pcnt := 0#5, byReg := { b0 := 0#8, b1 := 0#8, b2 := 0#8 } }

/-- R130, R62: SETGAIN with the clock low writes the gain code of the selector and starts a read whose sample is dropped,
and changes nothing else. -/
def Obligations.SetgainWritesGainAndStartsAFlushRead : Prop :=
  ∀ (sel : Byte) (s : State), s.sck = 0#1 →
    exec (.setgain sel) s = .next
      { s with gain := if sel = 128#8 then 1#2 else if sel = 64#8 then 3#2 else if sel = 32#8 then 2#2 else 1#2
               st := .poll, latch := 0#1, pcnt := 0#5, byReg := { b0 := 0#8, b1 := 0#8, b2 := 0#8 } }

/-- R150: with the clock high READ and SETGAIN are refused with `ERR_SCK_HIGH`, whatever the operand: nothing but `ERR`
(if 0) and the response is written, `GAIN` included, and no line event is made; PWRUP is not refused on this ground. -/
def Obligations.ReadAndSetgainRefusedWithClockHigh : Prop :=
  ∀ (u : Byte) (s : State), s.sck = 1#1 →
    exec (.read u) s = .next
      { s with st := .idle, err := if s.err = 0#2 then 2#2 else s.err, rspV := 1#1, rspE := 2#2, rspD := 0#8 } ∧
    exec (.setgain u) s = .next
      { s with st := .idle, err := if s.err = 0#2 then 2#2 else s.err, rspV := 1#1, rspE := 2#2, rspD := 0#8 } ∧
    exec (.pwrup u) s = .next { s with st := .puLo }

/-- R131, R63: GETGAIN answers the selector of the gain code at once, in either power state, and writes the response only.
For the gain code 0, to which the spec gives no selector (U3), it answers a value the statement does not fix. -/
def Obligations.GetgainReportsTheSelector : Prop :=
  ∀ (u : Byte) (s : State),
    ∃ d : Byte, exec (.getgain u) s = .next { s with st := .idle, rspV := 1#1, rspE := 0#2, rspD := d } ∧
      (s.gain = 1#2 → d = 128#8) ∧ (s.gain = 2#2 → d = 32#8) ∧ (s.gain = 3#2 → d = 64#8)

/-- R132, R65: SETFMT writes the byte order and the bit order flag at once, in either power state, and the response;
`RAW` and everything else stay. -/
def Obligations.SetfmtWritesTheFormatFlags : Prop :=
  ∀ (u : BitVec 6) (y b : Bit) (s : State),
    exec (.setfmt u y b) s = .next
      { s with st := .idle, byteOrd := y, bitOrd := b, rspV := 1#1, rspE := 0#2, rspD := 0#8 }

/-- R140, R144: PWRDN and PWRUP are accepted in either power state; the accepting step moves the sequencer only. -/
def Obligations.PowerCommandsStart : Prop :=
  ∀ (u : Byte) (s : State),
    exec (.pwrdn u) s = .next { s with st := .pdLo } ∧ exec (.pwrup u) s = .next { s with st := .puLo }

/-! ### Rules of the whole machine -/

/-- R18, R19, R20, R58: without reset, `GAIN` changes only when a SETGAIN is accepted with the clock low, the format flags
only when a SETFMT is accepted; so none of them changes while a command is in flight. -/
def Obligations.ConfigurationWrittenOnlyByItsCommands : Prop :=
  ∀ s t : State, step s = .next t → (s.inputAt 0).rst = 0#1 →
    (t.gain ≠ s.gain → s.st = .idle ∧ s.wcnt = 0 ∧ s.sck = 0#1 ∧ ∃ sel, Offers (.setgain sel) 0 s) ∧
    (t.bitOrd ≠ s.bitOrd ∨ t.byteOrd ≠ s.byteOrd →
      s.st = .idle ∧ s.wcnt = 0 ∧ ∃ u y b, Offers (.setfmt u y b) 0 s ∧ t.byteOrd = y ∧ t.bitOrd = b)

/-- R17, R16, R21: without reset, `RAW` changes only at `FIN` of a kept read, `PWR` only at `PD_END` (to Down) and `PU_END`
(to Up), and `BY` only at `SMP` or when a read starts, which clears it. -/
def Obligations.SampleAndPowerRegistersWrittenOnlyByTheirSteps : Prop :=
  ∀ s t : State, step s = .next t → (s.inputAt 0).rst = 0#1 →
    (t.raw ≠ s.raw → s.st = .fin ∧ s.wcnt = 0 ∧ s.latch = 1#1) ∧
    (t.pwr ≠ s.pwr → s.wcnt = 0 ∧ ((s.st = .pdEnd ∧ t.pwr = 1#1) ∨ (s.st = .puEnd ∧ t.pwr = 0#1))) ∧
    (t.byReg ≠ s.byReg → s.wcnt = 0 ∧
      (s.st = .smp ∨ (t.st = .poll ∧ t.byReg = { b0 := 0#8, b1 := 0#8, b2 := 0#8 })))

/-- R42, R43, R49: a step without reset makes at most one line event.  A `LineSet(v)` leaves `SCK` = `v`, a `LineGet`
records the level of `dout` and leaves `SCK`, and with no event `SCK` stays. -/
def Obligations.AtMostOneLineEventPerStep : Prop :=
  ∀ s t : State, step s = .next t → (s.inputAt 0).rst = 0#1 →
    (t.trace = s.trace ∧ t.sck = s.sck) ∨
    (∃ v, t.trace = s.trace ++ [.set v] ∧ t.sck = v ∧ s.wcnt = 0 ∧
      (s.st = .hi ∨ s.st = .lo ∨ s.st = .pdLo ∨ s.st = .pdHi ∨ s.st = .puLo)) ∨
    (t.trace = s.trace ++ [.get (s.inputAt 0).dout] ∧ t.sck = s.sck ∧ s.wcnt = 0 ∧ (s.st = .poll ∨ s.st = .smp))

/-- R23, R157: `ERR` keeps the code of the first refusal since reset: without reset it changes only from 0, only in a step
that refuses a command, and then to the code of that refusal. -/
def Obligations.FirstRefusalIsKept : Prop :=
  ∀ s t : State, step s = .next t → (s.inputAt 0).rst = 0#1 → t.err ≠ s.err →
    s.err = 0#2 ∧ s.st = .idle ∧ s.wcnt = 0 ∧ t.rspV = 1#1 ∧ t.rspE = t.err ∧ (t.err = 1#2 ∨ t.err = 2#2)

/-- R24, R155: without reset, the response strobe is 1 after a step exactly when the step completed a command: it acted
(no stall), it was not an idle step without command, and it left the sequencer at `IDLE`.  The error code and the data
change only in such a step. -/
def Obligations.ResponseMarksCompletion : Prop :=
  ∀ s t : State, step s = .next t → (s.inputAt 0).rst = 0#1 →
    (t.rspV = 1#1 ↔ s.wcnt = 0 ∧ t.st = .idle ∧ (s.st = .idle → (s.inputAt 0).cmdValid = 1#1)) ∧
    (t.rspV = 0#1 → t.rspE = s.rspE ∧ t.rspD = s.rspD)

/-- R158, R26: while a command is in flight, or a wait runs, or nothing is offered, the word on `cmd` has no effect; in the
first two cases neither has `cmd_valid`. -/
def Obligations.CommandPortIgnoredUnlessAccepting : Prop :=
  ∀ (s : State) (i i' : Input) (rest : List Input), s.inputs = i :: rest → i'.rst = i.rst → i'.dout = i.dout →
    (s.st ≠ .idle ∨ s.wcnt ≠ 0 ∨ (i.cmdValid = 0#1 ∧ i'.cmdValid = 0#1)) →
    step { s with inputs := i' :: rest } = step s

/-- R26: `dout` is looked at only at `POLL` and `SMP` steps with `WCNT` = 0. -/
def Obligations.DataLineIgnoredOutsidePollAndSample : Prop :=
  ∀ (s : State) (i : Input) (d : Bit) (rest : List Input), s.inputs = i :: rest →
    ((s.st ≠ .poll ∧ s.st ≠ .smp) ∨ s.wcnt ≠ 0) →
    step { s with inputs := { i with dout := d } :: rest } = step s

/-- R157, R21: `ERR` and `PWR` gate nothing: two states that differ only in them go, by one step, to states that differ
only in them. -/
def Obligations.ErrAndPwrGateNothing : Prop :=
  ∀ (s : State) (e : ErrCode) (p : Bit),
    ∃ t e' p', step s = .next t ∧ step { s with err := e, pwr := p } = .next { t with err := e', pwr := p' }

/-- R7: no step changes a parameter of the instance.  Each step takes one record of input levels and is counted, and the
trace only grows: the queue, the count and where the trace is held are the model's choice (logs 1, 2, 4). -/
def Obligations.StepKeepsTheInstance : Prop :=
  ∀ s t : State, step s = .next t →
    t.params = s.params ∧ t.inputs = s.inputs.tail ∧ t.cycle = s.cycle + 1 ∧ s.trace <+: t.trace

/-! ### Invariants -/

/-- R29 and R28: the reset state, and every start of the machine in a legal instance, meets the invariant. -/
def Obligations.ResetMeetsTheInvariant : Prop :=
  Inv State.reset ∧ ∀ s : State, Initial s → Inv s

/-- R28, R7, R14: every step keeps the invariant, from every state that meets it, reachable or not. -/
def Obligations.StepKeepsTheInvariant : Prop :=
  ∀ s t : State, Inv s → step s = .next t → Inv t

/-- R28: its eight items hold in every state reachable from reset by steps, whatever the inputs and the instance. -/
def Obligations.ReachableStatesMeetTheLaws : Prop :=
  ∀ s : State, Reachable s → StateLaws s

/-! ### The decoder and the place of the samples -/

/-- R120, R124: the equal forms of `Decode24`; it is a bijection from 24-bit words onto −8388608..8388607, strictly
increasing on each half. -/
def Obligations.DecoderIsTwosComplement : Prop :=
  (∀ u : SampleWord,
    decode24 u = (if u.getLsbD 23 then (u.toNat : Int) - 2 ^ 24 else (u.toNat : Int)) ∧
    decode24 u = u.toInt ∧
    decode24 u = ((u.extractLsb' 0 23).toNat : Int) - 2 ^ 23 * ((u.extractLsb' 23 1).toNat : Int) ∧
    decode24 u % 2 ^ 24 = (u.toNat : Int) ∧
    -8388608 ≤ decode24 u ∧ decode24 u ≤ 8388607) ∧
  (∀ u v : SampleWord, decode24 u = decode24 v → u = v) ∧
  (∀ z : Int, -8388608 ≤ z → z ≤ 8388607 → ∃ u : SampleWord, decode24 u = z) ∧
  (∀ u v : SampleWord, u.toNat < v.toNat → (v.toNat ≤ 0x7FFFFF ∨ 0x800000 ≤ u.toNat) → decode24 u < decode24 v)

/-- R121, R122: `word` is the three result bytes, most significant first, and `value`, read as a signed number, is
`Decode24(word)`: bits 23 to 0 are `word`, the bits above copy bit 23. -/
def Obligations.WordAndValuePorts : Prop :=
  ∀ s : State, 24 ≤ s.params.valueW →
    (wordPort s).extractLsb' 16 8 = s.raw.b0 ∧ (wordPort s).extractLsb' 8 8 = s.raw.b1 ∧
    (wordPort s).extractLsb' 0 8 = s.raw.b2 ∧
    (wordPort s).toNat = s.raw.b0.toNat * 2 ^ 16 + s.raw.b1.toNat * 2 ^ 8 + s.raw.b2.toNat ∧
    (valuePort s).toInt = decode24 (wordPort s) ∧
    (∀ k < 24, (valuePort s).getLsbD k = (wordPort s).getLsbD k) ∧
    (∀ k, 24 ≤ k → k < s.params.valueW → (valuePort s).getLsbD k = (wordPort s).getLsbD 23)

/-- R67: eight samples shifted into a byte that held anything land where the bit order says: the first at bit 7 for bit
order 0, at bit 0 for bit order 1. -/
def Obligations.EightSamplesFillAByte : Prop :=
  ∀ (order : Bit) (a : Nat → Bit) (b : Byte),
    ∀ k < 8, ((List.range 8).foldl (fun x n => shiftByte order (a n) x) b).extractLsb'
      (if order = 0#1 then 7 - k else k) 1 = a k

/-- R69: with the bytes placed by R67 and ordered by R68, sample `d[k]` is bit `Pos(k)` of the word; `Pos` is a permutation
of 0 to 23 in each of the four formats, and the table's closed forms are it. -/
def Obligations.SamplePlacesInTheWord : Prop :=
  (∀ (y b : Bit) (a : Nat → Bit) (x : Bytes3), HoldsSamples b a x →
    ∀ k < 24, (wordOf (if y = 0#1 then x else { b0 := x.b2, b1 := x.b1, b2 := x.b0 })).extractLsb'
      (samplePos y b k) 1 = a k) ∧
  (∀ k < 24, samplePos 0#1 0#1 k = 23 - k ∧ samplePos 0#1 1#1 k = 8 * (2 - k / 8) + k % 8 ∧
    samplePos 1#1 0#1 k = 8 * (k / 8) + 7 - k % 8 ∧ samplePos 1#1 1#1 k = k) ∧
  (∀ (y b : Bit), ∀ p < 24, ∃ k < 24, samplePos y b k = p ∧ ∀ k' < 24, samplePos y b k' = p → k' = k)

/-! ### Whole commands -/

/-- R101, R103: the line events of a read sequence, from the state `StartRead` leaves, whoever started it: `n` polls
answered 1, one answered 0, then `24 + GAIN` times `LineSet(1)`, `LineSet(0)`, `LineGet()`, and nothing else; `24 + GAIN` rising and as many falling
edges; the clock line is 0 at the end. -/
def Obligations.ReadSequenceOnTheLines : Prop :=
  ∀ (s : State) (n : Nat), s.params.legal → s.st = .poll → s.wcnt = 0 → s.rspV = 0#1 → s.pcnt = 0#5 →
    s.byReg = { b0 := 0#8, b1 := 0#8, b2 := 0#8 } → s.sck = 0#1 →
    NoReset (readSteps s.params s.gain n) s → ReadyAfter 0 n s →
    ∃ t, run (readSteps s.params s.gain n) s = .next t ∧ t.st = .idle ∧ t.rspV = 1#1 ∧ t.rspE = 0#2 ∧ t.sck = 0#1 ∧
      t.trace = s.trace ++ readTrace n s.gain (answer 0 n s) ∧
      (readTrace n s.gain (answer 0 n s)).count (.set 1#1) = 24 + s.gain.toNat ∧
      (readTrace n s.gain (answer 0 n s)).count (.set 0#1) = 24 + s.gain.toNat

/-- R102, R92: a READ accepted with the clock low, whose `n` first polls are answered 1 and the next 0, ends
`1 + (n + 1) + (24 + GAIN) · (T_HI + T_LO + 1) + 1` steps after it was offered, with the 24 data answers in the places
the two flags give them in `BY`, `RAW` and `word`, the read's line events, a response without error, and every other
register as before.  It depends on neither the old `BY` and `RAW` nor the answers to the gain pulses. -/
def Obligations.ReadKeepsTheSample : Prop :=
  ∀ (s : State) (u : Byte) (n : Nat), s.params.legal → s.st = .idle → s.wcnt = 0 → s.sck = 0#1 →
    NoReset (1 + readSteps s.params s.gain n) s → Offers (.read u) 0 s → ReadyAfter 1 n s →
    ∃ t, run (1 + readSteps s.params s.gain n) s = .next t ∧
      t = { s with st := .idle, pcnt := BitVec.ofNat 5 (24 + s.gain.toNat), wcnt := 0, latch := 1#1
                   byReg := t.byReg, raw := t.raw, sck := 0#1, rspV := 1#1, rspE := 0#2, rspD := 0#8
                   inputs := s.inputs.drop (1 + readSteps s.params s.gain n)
                   cycle := s.cycle + (1 + readSteps s.params s.gain n)
                   trace := s.trace ++ readTrace n s.gain (answer 1 n s) } ∧
      HoldsSamples s.bitOrd (answer 1 n s) t.byReg ∧
      t.raw = (if s.byteOrd = 0#1 then t.byReg
               else { b0 := t.byReg.b2, b1 := t.byReg.b1, b2 := t.byReg.b0 }) ∧
      (∀ k < 24, (wordPort t).extractLsb' (samplePos s.byteOrd s.bitOrd k) 1 = answer 1 n s k) ∧
      (valuePort t).toInt = decode24 (wordPort t)

/-- R130: a SETGAIN accepted with the clock low runs a whole read with the NEW gain code and drops the sample: `RAW` keeps
the last kept one. -/
def Obligations.SetgainFlushesWithTheNewGain : Prop :=
  ∀ (s : State) (sel : Byte) (n : Nat), s.params.legal → s.st = .idle → s.wcnt = 0 → s.sck = 0#1 →
    NoReset (1 + readSteps s.params (gainCode sel) n) s → Offers (.setgain sel) 0 s → ReadyAfter 1 n s →
    ∃ t, run (1 + readSteps s.params (gainCode sel) n) s = .next t ∧
      t = { s with st := .idle, pcnt := BitVec.ofNat 5 (24 + (gainCode sel).toNat), wcnt := 0, latch := 0#1
                   byReg := t.byReg, gain := gainCode sel, sck := 0#1, rspV := 1#1, rspE := 0#2, rspD := 0#8
                   inputs := s.inputs.drop (1 + readSteps s.params (gainCode sel) n)
                   cycle := s.cycle + (1 + readSteps s.params (gainCode sel) n)
                   trace := s.trace ++ readTrace n (gainCode sel) (answer 1 n s) } ∧
      HoldsSamples s.bitOrd (answer 1 n s) t.byReg

/-- R104: READ and SETGAIN take `1 + (n + 1) + (24 + GAIN) · (T_HI + T_LO + 1) + 1` steps, the accepting and the completing
step included (for SETGAIN with the new gain code): the response comes with the last of them and not before, and the
block is busy in between. -/
def Obligations.ReadAndSetgainDuration : Prop :=
  ∀ (s : State) (i : Instr) (g : GainCode) (n : Nat), s.params.legal → s.st = .idle → s.wcnt = 0 → s.sck = 0#1 →
    ((∃ u, i = .read u ∧ g = s.gain) ∨ (∃ sel, i = .setgain sel ∧ g = gainCode sel)) →
    NoReset (1 + (n + 1) + (24 + g.toNat) * (s.params.tHi + s.params.tLo + 1) + 1) s → Offers i 0 s →
    ReadyAfter 1 n s →
    (∃ t, run (1 + (n + 1) + (24 + g.toNat) * (s.params.tHi + s.params.tLo + 1) + 1) s = .next t ∧
      t.rspV = 1#1 ∧ t.rspE = 0#2 ∧ t.st = .idle) ∧
    (∀ k, 1 ≤ k → k < 1 + (n + 1) + (24 + g.toNat) * (s.params.tHi + s.params.tLo + 1) + 1 →
      ∃ t, run k s = .next t ∧ t.rspV = 0#1 ∧ busy t = 1#1)

/-- R134: after an accepted `SETGAIN s` has completed, GETGAIN reports `s` if `s` is 128, 64 or 32, and 128 otherwise. -/
def Obligations.GainRoundTrip : Prop :=
  ∀ (s : State) (sel u : Byte) (n : Nat), s.params.legal → s.st = .idle → s.wcnt = 0 → s.sck = 0#1 →
    NoReset (1 + readSteps s.params (gainCode sel) n) s → Offers (.setgain sel) 0 s → ReadyAfter 1 n s →
    ∃ t, run (1 + readSteps s.params (gainCode sel) n) s = .next t ∧ t.rspV = 1#1 ∧
      exec (.getgain u) t = .next
        { t with st := .idle, rspV := 1#1, rspE := 0#2
                 rspD := if sel = 128#8 ∨ sel = 64#8 ∨ sel = 32#8 then sel else 128#8 }

/-- R140, R142, R143: PWRDN, from either power state: the clock line goes low, then high and stays high for the `T_HOLD`
periods of the hold and after it; `PWR` changes at the end of the hold only; `T_HOLD + 3` steps; no other register
changes. -/
def Obligations.PowerDownHoldsTheClockHigh : Prop :=
  ∀ (s : State) (u : Byte), s.params.legal → s.st = .idle → s.wcnt = 0 →
    NoReset (s.params.tHold + 3) s → Offers (.pwrdn u) 0 s →
    run (s.params.tHold + 3) s = .next
      { s with st := .idle, wcnt := 0, pwr := 1#1, sck := 1#1, rspV := 1#1, rspE := 0#2, rspD := 0#8
               inputs := s.inputs.drop (s.params.tHold + 3), cycle := s.cycle + (s.params.tHold + 3)
               trace := s.trace ++ [.set 0#1, .set 1#1] } ∧
    (∃ t, run 2 s = .next t ∧ t.sck = 0#1 ∧ t.pwr = s.pwr) ∧
    (∀ k, 3 ≤ k → k < s.params.tHold + 3 →
      ∃ t, run k s = .next t ∧ t.st = .pdEnd ∧ t.sck = 1#1 ∧ t.pwr = s.pwr ∧ t.rspV = 0#1)

/-- R144, R145, R146: PWRUP, from either power state: the clock line goes low and stays low for the hold; then, with gain
code 1, the command is complete after `T_HOLD + 2` steps with no read at all; with another gain code one flush read
follows in the same command, its sample is dropped, and before the last step there is no response and the block is busy. -/
def Obligations.PowerUpHoldsTheClockLowAndFlushes : Prop :=
  ∀ (s : State) (u : Byte), s.params.legal → s.st = .idle → s.wcnt = 0 → Offers (.pwrup u) 0 s →
    (∀ k, 2 ≤ k → k < s.params.tHold + 2 → NoReset k s →
      ∃ t, run k s = .next t ∧ t.st = .puEnd ∧ t.sck = 0#1 ∧ t.pwr = s.pwr ∧ t.rspV = 0#1) ∧
    (s.gain = 1#2 → NoReset (s.params.tHold + 2) s →
      run (s.params.tHold + 2) s = .next
        { s with st := .idle, wcnt := 0, pwr := 0#1, sck := 0#1, rspV := 1#1, rspE := 0#2, rspD := 0#8
                 inputs := s.inputs.drop (s.params.tHold + 2), cycle := s.cycle + (s.params.tHold + 2)
                 trace := s.trace ++ [.set 0#1] }) ∧
    (s.gain ≠ 1#2 → ∀ n, NoReset (s.params.tHold + 2 + readSteps s.params s.gain n) s →
      ReadyAfter (s.params.tHold + 2) n s →
      ∃ t, run (s.params.tHold + 2 + readSteps s.params s.gain n) s = .next t ∧
        t = { s with st := .idle, pcnt := BitVec.ofNat 5 (24 + s.gain.toNat), wcnt := 0, latch := 0#1
                     byReg := t.byReg, pwr := 0#1, sck := 0#1, rspV := 1#1, rspE := 0#2, rspD := 0#8
                     inputs := s.inputs.drop (s.params.tHold + 2 + readSteps s.params s.gain n)
                     cycle := s.cycle + (s.params.tHold + 2 + readSteps s.params s.gain n)
                     trace := s.trace ++ .set 0#1 :: readTrace n s.gain (answer (s.params.tHold + 2) n s) } ∧
        HoldsSamples s.bitOrd (answer (s.params.tHold + 2) n s) t.byReg ∧
        ∀ k, 1 ≤ k → k < s.params.tHold + 2 + readSteps s.params s.gain n →
          ∃ t', run k s = .next t' ∧ t'.rspV = 0#1 ∧ busy t' = 1#1)

/-- R106, R154: as long as every poll of a READ, of a SETGAIN or of the flush read of a PWRUP is answered 1, the block stays
at `POLL`: no response, no error, one poll a step, for any number of steps. -/
def Obligations.ReadWaitsWithoutLimit : Prop :=
  ∀ (s : State) (n : Nat), s.st = .idle → s.wcnt = 0 →
    (∀ u, s.sck = 0#1 → NoReset (1 + n) s → Offers (.read u) 0 s → (∀ j < n, (s.inputAt (1 + j)).dout = 1#1) →
      run (1 + n) s = .next
        { s with st := .poll, latch := 1#1, pcnt := 0#5, byReg := { b0 := 0#8, b1 := 0#8, b2 := 0#8 }, rspV := 0#1
                 inputs := s.inputs.drop (1 + n), cycle := s.cycle + (1 + n)
                 trace := s.trace ++ List.replicate n (.get 1#1) }) ∧
    (∀ sel, s.sck = 0#1 → NoReset (1 + n) s → Offers (.setgain sel) 0 s →
      (∀ j < n, (s.inputAt (1 + j)).dout = 1#1) →
      run (1 + n) s = .next
        { s with st := .poll, gain := gainCode sel, latch := 0#1, pcnt := 0#5
                 byReg := { b0 := 0#8, b1 := 0#8, b2 := 0#8 }, rspV := 0#1
                 inputs := s.inputs.drop (1 + n), cycle := s.cycle + (1 + n)
                 trace := s.trace ++ List.replicate n (.get 1#1) }) ∧
    (∀ u, s.params.legal → s.gain ≠ 1#2 → NoReset (s.params.tHold + 2 + n) s → Offers (.pwrup u) 0 s →
      (∀ j < n, (s.inputAt (s.params.tHold + 2 + j)).dout = 1#1) →
      run (s.params.tHold + 2 + n) s = .next
        { s with st := .poll, wcnt := 0, pwr := 0#1, sck := 0#1, latch := 0#1, pcnt := 0#5
                 byReg := { b0 := 0#8, b1 := 0#8, b2 := 0#8 }, rspV := 0#1
                 inputs := s.inputs.drop (s.params.tHold + 2 + n), cycle := s.cycle + (s.params.tHold + 2 + n)
                 trace := s.trace ++ .set 0#1 :: List.replicate n (.get 1#1) })

/-- R182, R106, under `ENV_READY` (R53) with the environment's bound `b`: a READ or a SETGAIN accepted with the clock low,
and a PWRUP that flushes, completes after at least one step and within the steps of a read that polls `b` times in vain;
`m` is the step of its first poll, `g` the gain code of its read.  Before that step there is no response and the block is
busy, so the response is this command's own, and not one that stands from the command before. -/
def Obligations.ReadCompletesWhenTheChipIsReady : Prop :=
  ∀ (s : State) (i : Instr) (g : GainCode) (m b : Nat), s.params.legal → s.st = .idle → s.wcnt = 0 →
    ((∃ u, i = .read u ∧ g = s.gain ∧ m = 1 ∧ s.sck = 0#1) ∨
      (∃ sel, i = .setgain sel ∧ g = gainCode sel ∧ m = 1 ∧ s.sck = 0#1) ∨
      (∃ u, i = .pwrup u ∧ g = s.gain ∧ s.gain ≠ 1#2 ∧ m = s.params.tHold + 2)) →
    NoReset (m + readSteps s.params g b) s → Offers i 0 s → EnvReady m b s →
    ∃ k, 1 ≤ k ∧ k ≤ m + readSteps s.params g b ∧
      (∃ t, run k s = .next t ∧ t.st = .idle ∧ t.rspV = 1#1 ∧ t.rspE = 0#2) ∧
      ∀ j, 1 ≤ j → j < k → ∃ t, run j s = .next t ∧ t.rspV = 0#1 ∧ busy t = 1#1

/-- R54, R180: under `ENV_SHIFT`, in the default format, a READ leaves the chip's sample on `word`, and on `value` its
two's-complement reading. -/
def Obligations.ReadDeliversTheChipSample : Prop :=
  ∀ (s : State) (u : Byte) (n : Nat) (c : SampleWord), s.params.legal → s.st = .idle → s.wcnt = 0 → s.sck = 0#1 →
    s.bitOrd = 0#1 → s.byteOrd = 0#1 → NoReset (1 + readSteps s.params s.gain n) s → Offers (.read u) 0 s →
    ReadyAfter 1 n s → EnvShift c (answer 1 n s) →
    ∃ t, run (1 + readSteps s.params s.gain n) s = .next t ∧ t.rspV = 1#1 ∧ wordPort t = c ∧
      (valuePort t).toInt = decode24 c

/-- R175, R55: under `ENV_GAIN`, the flush read of a completed `SETGAIN s` is a frame whose pulses select the gain code of
`s` for the conversion the next frame shifts out. -/
def Obligations.SetgainSelectsTheNextGain : Prop :=
  ∀ (s : State) (sel : Byte) (n : Nat), s.params.legal → s.st = .idle → s.wcnt = 0 → s.sck = 0#1 →
    NoReset (1 + readSteps s.params (gainCode sel) n) s → Offers (.setgain sel) 0 s → ReadyAfter 1 n s →
    ∃ t, run (1 + readSteps s.params (gainCode sel) n) s = .next t ∧
      ∀ (pulses : Nat → Nat) (gainOf : Nat → GainCode) (f : Nat), EnvGain pulses gainOf →
        pulses f = risingEdges (t.trace.drop s.trace.length) → gainOf (f + 1) = gainCode sel

/-- R176, R146, under `ENV_GAIN` (R55): the flush read of a completed PWRUP, made because the gain code is not 1, is a frame
whose pulses select the configured gain for the conversion the next frame shifts out.  `Inv` rules out the gain code 0,
which no reachable state has. -/
def Obligations.PowerUpReselectsTheGain : Prop :=
  ∀ (s : State) (u : Byte) (n : Nat), Inv s → s.st = .idle → s.gain ≠ 1#2 → Offers (.pwrup u) 0 s →
    NoReset (s.params.tHold + 2 + readSteps s.params s.gain n) s → ReadyAfter (s.params.tHold + 2) n s →
    ∃ t, run (s.params.tHold + 2 + readSteps s.params s.gain n) s = .next t ∧ t.gain = s.gain ∧
      ∀ (pulses : Nat → Nat) (gainOf : Nat → GainCode) (f : Nat), EnvGain pulses gainOf →
        pulses f = risingEdges (t.trace.drop s.trace.length) → gainOf (f + 1) = s.gain

/-- R147: the pseudo-command `RESET`, `PWRDN` and then, `m` idle steps after its response, `PWRUP`, ends in the Up state with
the clock low, nothing refused, the configuration and the last sample kept; a flush read is made if the gain code is
not 1; a READ is accepted at once. -/
def Obligations.PseudoResetEndsUpReadyToRead : Prop :=
  ∀ (s : State) (u v x : Byte) (m n K : Nat) (flush : List LineEvent),
    s.params.legal → s.st = .idle → s.wcnt = 0 →
    ((s.gain = 1#2 ∧ K = s.params.tHold + 3 + m + (s.params.tHold + 2) ∧ flush = []) ∨
      (s.gain ≠ 1#2 ∧ K = s.params.tHold + 3 + m + (s.params.tHold + 2 + readSteps s.params s.gain n) ∧
        ReadyAfter (s.params.tHold + 3 + m + (s.params.tHold + 2)) n s ∧
        flush = readTrace n s.gain (answer (s.params.tHold + 3 + m + (s.params.tHold + 2)) n s))) →
    NoReset K s → Offers (.pwrdn u) 0 s → NoOffer (s.params.tHold + 3) m s →
    Offers (.pwrup v) (s.params.tHold + 3 + m) s →
    ∃ t, run K s = .next t ∧
      t.st = .idle ∧ t.wcnt = 0 ∧ t.pwr = 0#1 ∧ t.sck = 0#1 ∧ t.rspV = 1#1 ∧ t.rspE = 0#2 ∧ t.err = s.err ∧
      t.gain = s.gain ∧ t.bitOrd = s.bitOrd ∧ t.byteOrd = s.byteOrd ∧ t.raw = s.raw ∧
      t.trace = s.trace ++ .set 0#1 :: .set 1#1 :: .set 0#1 :: flush ∧
      exec (.read x) t = .next
        { t with st := .poll, latch := 1#1, pcnt := 0#5, byReg := { b0 := 0#8, b1 := 0#8, b2 := 0#8 } }
end

