-- ==== Sys2Proof/Laws/Encoding.lean ====
section
/-! SUPPORT. The two fields of the command word, and the decoder by opcode (spec R60, R70). -/

namespace Sys2Proof

/-- A bit of an opcode put above an argument. -/
theorem getLsbD_op_arg (o : BitVec 4) (a : Byte) (k : Nat) :
    BitVec.getLsbD (o ++ a : CmdWord) k = if k < 8 then a.getLsbD k else o.getLsbD (k - 8) := by
  exact (BitVec.getLsbD_append).trans (by split <;> rfl)

@[simp] theorem opField_append (o : BitVec 4) (a : Byte) : opField (o ++ a) = o := by
  apply BitVec.eq_of_getLsbD_eq
  intro k hk
  have h := getLsbD_op_arg o a (8 + k)
  simp only [opField, BitVec.getLsbD_extractLsb', hk, decide_true, Bool.true_and]
  rw [h]; simp

@[simp] theorem argField_append (o : BitVec 4) (a : Byte) : argField (o ++ a) = a := by
  apply BitVec.eq_of_getLsbD_eq
  intro k hk
  have h := getLsbD_op_arg o a (0 + k)
  simp only [argField, BitVec.getLsbD_extractLsb', hk, decide_true, Bool.true_and]
  rw [h]; simp [hk]

/-- A word is its opcode above its argument. -/
theorem word_split (w : CmdWord) : (opField w ++ argField w : CmdWord) = w := by
  apply BitVec.eq_of_getLsbD_eq
  intro k hk
  rw [getLsbD_op_arg]
  by_cases h : k < 8
  · simp [argField, h]
  · have h4 : k - 8 < 4 := by omega
    have h8 : 8 + (k - 8) = k := by omega
    simp [opField, h, h4, h8]

/-- The parts of the argument of SETFMT, put together again. -/
theorem argument_split (a : Byte) :
    (a.extractLsb' 2 6 ++ a.extractLsb' 1 1 ++ a.extractLsb' 0 1 : BitVec 8) = a := by
  revert a; decide

theorem decode_read {w : CmdWord} (h : opField w = 0x1#4) : decode w = .ok (.read (argField w)) := by
  simp [decode, h]

theorem decode_setgain {w : CmdWord} (h : opField w = 0x2#4) : decode w = .ok (.setgain (argField w)) := by
  simp [decode, h]

theorem decode_getgain {w : CmdWord} (h : opField w = 0x3#4) : decode w = .ok (.getgain (argField w)) := by
  simp [decode, h]

theorem decode_setfmt {w : CmdWord} (h : opField w = 0x4#4) :
    decode w = .ok (.setfmt ((argField w).extractLsb' 2 6) ((argField w).extractLsb' 1 1)
      ((argField w).extractLsb' 0 1)) := by
  simp [decode, h]

theorem decode_pwrdn {w : CmdWord} (h : opField w = 0x5#4) : decode w = .ok (.pwrdn (argField w)) := by
  simp [decode, h]

theorem decode_pwrup {w : CmdWord} (h : opField w = 0x6#4) : decode w = .ok (.pwrup (argField w)) := by
  simp [decode, h]

end Sys2Proof
end

