-- ==== Sys2Proof/Laws/PerInstr.lean ====
section
/-! SUPPORT. Statements for all commands, made per command. -/

namespace Sys2Proof.Laws.OpcodeRow

/-- The command's word carries the opcode of its row of the table (spec R70: match and mask). -/
def Statement (i : Instr) : Prop := encode i &&& i.row.mask = i.row.pattern

/-- A word with opcode `o` meets the mask `0xF00` with the pattern `o00`. -/
theorem masked (o : BitVec 4) (a : Byte) : (o ++ a : CmdWord) &&& 0xF00#12 = o ++ 0#8 := by
  apply BitVec.eq_of_getLsbD_eq
  intro k hk
  rw [BitVec.getLsbD_and, getLsbD_op_arg, getLsbD_op_arg]
  interval_cases k <;> simp

theorem read (unused : Byte) : Statement (.read unused) := masked 0x1#4 unused

theorem setgain (sel : Byte) : Statement (.setgain sel) := masked 0x2#4 sel

theorem getgain (unused : Byte) : Statement (.getgain unused) := masked 0x3#4 unused

theorem setfmt (unused : BitVec 6) (byteOrd bitOrd : Bit) : Statement (.setfmt unused byteOrd bitOrd) :=
  masked 0x4#4 (unused ++ byteOrd ++ bitOrd : BitVec 8)

theorem pwrdn (unused : Byte) : Statement (.pwrdn unused) := masked 0x5#4 unused

theorem pwrup (unused : Byte) : Statement (.pwrup unused) := masked 0x6#4 unused

end Sys2Proof.Laws.OpcodeRow
end

