-- ==== Sys2Proof/Laws/State.lean ====
section
/-! SUPPORT. One lemma per field per operation, each true by `rfl`: no later proof unfolds a record update. -/

namespace Sys2Proof.Machine

/-! `advance` -/
@[simp] theorem advance_st (s : State) : (advance s).st = s.st := rfl
@[simp] theorem advance_pcnt (s : State) : (advance s).pcnt = s.pcnt := rfl
@[simp] theorem advance_wcnt (s : State) : (advance s).wcnt = s.wcnt := rfl
@[simp] theorem advance_latch (s : State) : (advance s).latch = s.latch := rfl
@[simp] theorem advance_byReg (s : State) : (advance s).byReg = s.byReg := rfl
@[simp] theorem advance_raw (s : State) : (advance s).raw = s.raw := rfl
@[simp] theorem advance_gain (s : State) : (advance s).gain = s.gain := rfl
@[simp] theorem advance_bitOrd (s : State) : (advance s).bitOrd = s.bitOrd := rfl
@[simp] theorem advance_byteOrd (s : State) : (advance s).byteOrd = s.byteOrd := rfl
@[simp] theorem advance_pwr (s : State) : (advance s).pwr = s.pwr := rfl
@[simp] theorem advance_sck (s : State) : (advance s).sck = s.sck := rfl
@[simp] theorem advance_err (s : State) : (advance s).err = s.err := rfl
@[simp] theorem advance_rspV (s : State) : (advance s).rspV = s.rspV := rfl
@[simp] theorem advance_rspE (s : State) : (advance s).rspE = s.rspE := rfl
@[simp] theorem advance_rspD (s : State) : (advance s).rspD = s.rspD := rfl
@[simp] theorem advance_params (s : State) : (advance s).params = s.params := rfl
@[simp] theorem advance_inputs (s : State) : (advance s).inputs = s.inputs.tail := rfl
@[simp] theorem advance_cycle (s : State) : (advance s).cycle = s.cycle + 1 := rfl
@[simp] theorem advance_trace (s : State) : (advance s).trace = s.trace := rfl

/-! `beginStep` -/
@[simp] theorem beginStep_st (s : State) : (beginStep s).st = s.st := rfl
@[simp] theorem beginStep_pcnt (s : State) : (beginStep s).pcnt = s.pcnt := rfl
@[simp] theorem beginStep_wcnt (s : State) : (beginStep s).wcnt = s.wcnt := rfl
@[simp] theorem beginStep_latch (s : State) : (beginStep s).latch = s.latch := rfl
@[simp] theorem beginStep_byReg (s : State) : (beginStep s).byReg = s.byReg := rfl
@[simp] theorem beginStep_raw (s : State) : (beginStep s).raw = s.raw := rfl
@[simp] theorem beginStep_gain (s : State) : (beginStep s).gain = s.gain := rfl
@[simp] theorem beginStep_bitOrd (s : State) : (beginStep s).bitOrd = s.bitOrd := rfl
@[simp] theorem beginStep_byteOrd (s : State) : (beginStep s).byteOrd = s.byteOrd := rfl
@[simp] theorem beginStep_pwr (s : State) : (beginStep s).pwr = s.pwr := rfl
@[simp] theorem beginStep_sck (s : State) : (beginStep s).sck = s.sck := rfl
@[simp] theorem beginStep_err (s : State) : (beginStep s).err = s.err := rfl
@[simp] theorem beginStep_rspV (s : State) : (beginStep s).rspV = 0#1 := rfl
@[simp] theorem beginStep_rspE (s : State) : (beginStep s).rspE = s.rspE := rfl
@[simp] theorem beginStep_rspD (s : State) : (beginStep s).rspD = s.rspD := rfl
@[simp] theorem beginStep_params (s : State) : (beginStep s).params = s.params := rfl
@[simp] theorem beginStep_inputs (s : State) : (beginStep s).inputs = s.inputs.tail := rfl
@[simp] theorem beginStep_cycle (s : State) : (beginStep s).cycle = s.cycle + 1 := rfl
@[simp] theorem beginStep_trace (s : State) : (beginStep s).trace = s.trace := rfl

/-! `lineGet` -/
@[simp] theorem lineGet_st (d : Bit) (s : State) : (lineGet d s).st = s.st := rfl
@[simp] theorem lineGet_pcnt (d : Bit) (s : State) : (lineGet d s).pcnt = s.pcnt := rfl
@[simp] theorem lineGet_wcnt (d : Bit) (s : State) : (lineGet d s).wcnt = s.wcnt := rfl
@[simp] theorem lineGet_latch (d : Bit) (s : State) : (lineGet d s).latch = s.latch := rfl
@[simp] theorem lineGet_byReg (d : Bit) (s : State) : (lineGet d s).byReg = s.byReg := rfl
@[simp] theorem lineGet_raw (d : Bit) (s : State) : (lineGet d s).raw = s.raw := rfl
@[simp] theorem lineGet_gain (d : Bit) (s : State) : (lineGet d s).gain = s.gain := rfl
@[simp] theorem lineGet_bitOrd (d : Bit) (s : State) : (lineGet d s).bitOrd = s.bitOrd := rfl
@[simp] theorem lineGet_byteOrd (d : Bit) (s : State) : (lineGet d s).byteOrd = s.byteOrd := rfl
@[simp] theorem lineGet_pwr (d : Bit) (s : State) : (lineGet d s).pwr = s.pwr := rfl
@[simp] theorem lineGet_sck (d : Bit) (s : State) : (lineGet d s).sck = s.sck := rfl
@[simp] theorem lineGet_err (d : Bit) (s : State) : (lineGet d s).err = s.err := rfl
@[simp] theorem lineGet_rspV (d : Bit) (s : State) : (lineGet d s).rspV = s.rspV := rfl
@[simp] theorem lineGet_rspE (d : Bit) (s : State) : (lineGet d s).rspE = s.rspE := rfl
@[simp] theorem lineGet_rspD (d : Bit) (s : State) : (lineGet d s).rspD = s.rspD := rfl
@[simp] theorem lineGet_params (d : Bit) (s : State) : (lineGet d s).params = s.params := rfl
@[simp] theorem lineGet_inputs (d : Bit) (s : State) : (lineGet d s).inputs = s.inputs := rfl
@[simp] theorem lineGet_cycle (d : Bit) (s : State) : (lineGet d s).cycle = s.cycle := rfl
@[simp] theorem lineGet_trace (d : Bit) (s : State) : (lineGet d s).trace = s.trace ++ [.get d] := rfl

/-! `lineSet` -/
@[simp] theorem lineSet_st (v : Bit) (s : State) : (lineSet v s).st = s.st := rfl
@[simp] theorem lineSet_pcnt (v : Bit) (s : State) : (lineSet v s).pcnt = s.pcnt := rfl
@[simp] theorem lineSet_wcnt (v : Bit) (s : State) : (lineSet v s).wcnt = s.wcnt := rfl
@[simp] theorem lineSet_latch (v : Bit) (s : State) : (lineSet v s).latch = s.latch := rfl
@[simp] theorem lineSet_byReg (v : Bit) (s : State) : (lineSet v s).byReg = s.byReg := rfl
@[simp] theorem lineSet_raw (v : Bit) (s : State) : (lineSet v s).raw = s.raw := rfl
@[simp] theorem lineSet_gain (v : Bit) (s : State) : (lineSet v s).gain = s.gain := rfl
@[simp] theorem lineSet_bitOrd (v : Bit) (s : State) : (lineSet v s).bitOrd = s.bitOrd := rfl
@[simp] theorem lineSet_byteOrd (v : Bit) (s : State) : (lineSet v s).byteOrd = s.byteOrd := rfl
@[simp] theorem lineSet_pwr (v : Bit) (s : State) : (lineSet v s).pwr = s.pwr := rfl
@[simp] theorem lineSet_sck (v : Bit) (s : State) : (lineSet v s).sck = v := rfl
@[simp] theorem lineSet_err (v : Bit) (s : State) : (lineSet v s).err = s.err := rfl
@[simp] theorem lineSet_rspV (v : Bit) (s : State) : (lineSet v s).rspV = s.rspV := rfl
@[simp] theorem lineSet_rspE (v : Bit) (s : State) : (lineSet v s).rspE = s.rspE := rfl
@[simp] theorem lineSet_rspD (v : Bit) (s : State) : (lineSet v s).rspD = s.rspD := rfl
@[simp] theorem lineSet_params (v : Bit) (s : State) : (lineSet v s).params = s.params := rfl
@[simp] theorem lineSet_inputs (v : Bit) (s : State) : (lineSet v s).inputs = s.inputs := rfl
@[simp] theorem lineSet_cycle (v : Bit) (s : State) : (lineSet v s).cycle = s.cycle := rfl
@[simp] theorem lineSet_trace (v : Bit) (s : State) : (lineSet v s).trace = s.trace ++ [.set v] := rfl

/-! `goto` -/
@[simp] theorem goto_st (x : Seq) (s : State) : (goto x s).st = x := rfl
@[simp] theorem goto_pcnt (x : Seq) (s : State) : (goto x s).pcnt = s.pcnt := rfl
@[simp] theorem goto_wcnt (x : Seq) (s : State) : (goto x s).wcnt = s.wcnt := rfl
@[simp] theorem goto_latch (x : Seq) (s : State) : (goto x s).latch = s.latch := rfl
@[simp] theorem goto_byReg (x : Seq) (s : State) : (goto x s).byReg = s.byReg := rfl
@[simp] theorem goto_raw (x : Seq) (s : State) : (goto x s).raw = s.raw := rfl
@[simp] theorem goto_gain (x : Seq) (s : State) : (goto x s).gain = s.gain := rfl
@[simp] theorem goto_bitOrd (x : Seq) (s : State) : (goto x s).bitOrd = s.bitOrd := rfl
@[simp] theorem goto_byteOrd (x : Seq) (s : State) : (goto x s).byteOrd = s.byteOrd := rfl
@[simp] theorem goto_pwr (x : Seq) (s : State) : (goto x s).pwr = s.pwr := rfl
@[simp] theorem goto_sck (x : Seq) (s : State) : (goto x s).sck = s.sck := rfl
@[simp] theorem goto_err (x : Seq) (s : State) : (goto x s).err = s.err := rfl
@[simp] theorem goto_rspV (x : Seq) (s : State) : (goto x s).rspV = s.rspV := rfl
@[simp] theorem goto_rspE (x : Seq) (s : State) : (goto x s).rspE = s.rspE := rfl
@[simp] theorem goto_rspD (x : Seq) (s : State) : (goto x s).rspD = s.rspD := rfl
@[simp] theorem goto_params (x : Seq) (s : State) : (goto x s).params = s.params := rfl
@[simp] theorem goto_inputs (x : Seq) (s : State) : (goto x s).inputs = s.inputs := rfl
@[simp] theorem goto_cycle (x : Seq) (s : State) : (goto x s).cycle = s.cycle := rfl
@[simp] theorem goto_trace (x : Seq) (s : State) : (goto x s).trace = s.trace := rfl

/-! `loadWait` -/
@[simp] theorem loadWait_st (n : Nat) (s : State) : (loadWait n s).st = s.st := rfl
@[simp] theorem loadWait_pcnt (n : Nat) (s : State) : (loadWait n s).pcnt = s.pcnt := rfl
@[simp] theorem loadWait_wcnt (n : Nat) (s : State) : (loadWait n s).wcnt = n - 1 := rfl
@[simp] theorem loadWait_latch (n : Nat) (s : State) : (loadWait n s).latch = s.latch := rfl
@[simp] theorem loadWait_byReg (n : Nat) (s : State) : (loadWait n s).byReg = s.byReg := rfl
@[simp] theorem loadWait_raw (n : Nat) (s : State) : (loadWait n s).raw = s.raw := rfl
@[simp] theorem loadWait_gain (n : Nat) (s : State) : (loadWait n s).gain = s.gain := rfl
@[simp] theorem loadWait_bitOrd (n : Nat) (s : State) : (loadWait n s).bitOrd = s.bitOrd := rfl
@[simp] theorem loadWait_byteOrd (n : Nat) (s : State) : (loadWait n s).byteOrd = s.byteOrd := rfl
@[simp] theorem loadWait_pwr (n : Nat) (s : State) : (loadWait n s).pwr = s.pwr := rfl
@[simp] theorem loadWait_sck (n : Nat) (s : State) : (loadWait n s).sck = s.sck := rfl
@[simp] theorem loadWait_err (n : Nat) (s : State) : (loadWait n s).err = s.err := rfl
@[simp] theorem loadWait_rspV (n : Nat) (s : State) : (loadWait n s).rspV = s.rspV := rfl
@[simp] theorem loadWait_rspE (n : Nat) (s : State) : (loadWait n s).rspE = s.rspE := rfl
@[simp] theorem loadWait_rspD (n : Nat) (s : State) : (loadWait n s).rspD = s.rspD := rfl
@[simp] theorem loadWait_params (n : Nat) (s : State) : (loadWait n s).params = s.params := rfl
@[simp] theorem loadWait_inputs (n : Nat) (s : State) : (loadWait n s).inputs = s.inputs := rfl
@[simp] theorem loadWait_cycle (n : Nat) (s : State) : (loadWait n s).cycle = s.cycle := rfl
@[simp] theorem loadWait_trace (n : Nat) (s : State) : (loadWait n s).trace = s.trace := rfl

/-! `stall` -/
@[simp] theorem stall_st (s : State) : (stall s).st = s.st := rfl
@[simp] theorem stall_pcnt (s : State) : (stall s).pcnt = s.pcnt := rfl
@[simp] theorem stall_wcnt (s : State) : (stall s).wcnt = s.wcnt - 1 := rfl
@[simp] theorem stall_latch (s : State) : (stall s).latch = s.latch := rfl
@[simp] theorem stall_byReg (s : State) : (stall s).byReg = s.byReg := rfl
@[simp] theorem stall_raw (s : State) : (stall s).raw = s.raw := rfl
@[simp] theorem stall_gain (s : State) : (stall s).gain = s.gain := rfl
@[simp] theorem stall_bitOrd (s : State) : (stall s).bitOrd = s.bitOrd := rfl
@[simp] theorem stall_byteOrd (s : State) : (stall s).byteOrd = s.byteOrd := rfl
@[simp] theorem stall_pwr (s : State) : (stall s).pwr = s.pwr := rfl
@[simp] theorem stall_sck (s : State) : (stall s).sck = s.sck := rfl
@[simp] theorem stall_err (s : State) : (stall s).err = s.err := rfl
@[simp] theorem stall_rspV (s : State) : (stall s).rspV = s.rspV := rfl
@[simp] theorem stall_rspE (s : State) : (stall s).rspE = s.rspE := rfl
@[simp] theorem stall_rspD (s : State) : (stall s).rspD = s.rspD := rfl
@[simp] theorem stall_params (s : State) : (stall s).params = s.params := rfl
@[simp] theorem stall_inputs (s : State) : (stall s).inputs = s.inputs := rfl
@[simp] theorem stall_cycle (s : State) : (stall s).cycle = s.cycle := rfl
@[simp] theorem stall_trace (s : State) : (stall s).trace = s.trace := rfl

/-! `startRead` -/
@[simp] theorem startRead_st (l : Bit) (s : State) : (startRead l s).st = .poll := rfl
@[simp] theorem startRead_pcnt (l : Bit) (s : State) : (startRead l s).pcnt = 0#5 := rfl
@[simp] theorem startRead_wcnt (l : Bit) (s : State) : (startRead l s).wcnt = s.wcnt := rfl
@[simp] theorem startRead_latch (l : Bit) (s : State) : (startRead l s).latch = l := rfl
@[simp] theorem startRead_byReg (l : Bit) (s : State) : (startRead l s).byReg = { b0 := 0#8, b1 := 0#8, b2 := 0#8 } := rfl
@[simp] theorem startRead_raw (l : Bit) (s : State) : (startRead l s).raw = s.raw := rfl
@[simp] theorem startRead_gain (l : Bit) (s : State) : (startRead l s).gain = s.gain := rfl
@[simp] theorem startRead_bitOrd (l : Bit) (s : State) : (startRead l s).bitOrd = s.bitOrd := rfl
@[simp] theorem startRead_byteOrd (l : Bit) (s : State) : (startRead l s).byteOrd = s.byteOrd := rfl
@[simp] theorem startRead_pwr (l : Bit) (s : State) : (startRead l s).pwr = s.pwr := rfl
@[simp] theorem startRead_sck (l : Bit) (s : State) : (startRead l s).sck = s.sck := rfl
@[simp] theorem startRead_err (l : Bit) (s : State) : (startRead l s).err = s.err := rfl
@[simp] theorem startRead_rspV (l : Bit) (s : State) : (startRead l s).rspV = s.rspV := rfl
@[simp] theorem startRead_rspE (l : Bit) (s : State) : (startRead l s).rspE = s.rspE := rfl
@[simp] theorem startRead_rspD (l : Bit) (s : State) : (startRead l s).rspD = s.rspD := rfl
@[simp] theorem startRead_params (l : Bit) (s : State) : (startRead l s).params = s.params := rfl
@[simp] theorem startRead_inputs (l : Bit) (s : State) : (startRead l s).inputs = s.inputs := rfl
@[simp] theorem startRead_cycle (l : Bit) (s : State) : (startRead l s).cycle = s.cycle := rfl
@[simp] theorem startRead_trace (l : Bit) (s : State) : (startRead l s).trace = s.trace := rfl

/-! `takeSample` -/
@[simp] theorem takeSample_st (d : Bit) (s : State) : (takeSample d s).st = s.st := rfl
@[simp] theorem takeSample_pcnt (d : Bit) (s : State) : (takeSample d s).pcnt = s.pcnt := rfl
@[simp] theorem takeSample_wcnt (d : Bit) (s : State) : (takeSample d s).wcnt = s.wcnt := rfl
@[simp] theorem takeSample_latch (d : Bit) (s : State) : (takeSample d s).latch = s.latch := rfl
@[simp] theorem takeSample_byReg (d : Bit) (s : State) : (takeSample d s).byReg =
      if s.pcnt.toNat < 24 then shiftInto s.bitOrd (s.pcnt.toNat / 8) d s.byReg else s.byReg := rfl
@[simp] theorem takeSample_raw (d : Bit) (s : State) : (takeSample d s).raw = s.raw := rfl
@[simp] theorem takeSample_gain (d : Bit) (s : State) : (takeSample d s).gain = s.gain := rfl
@[simp] theorem takeSample_bitOrd (d : Bit) (s : State) : (takeSample d s).bitOrd = s.bitOrd := rfl
@[simp] theorem takeSample_byteOrd (d : Bit) (s : State) : (takeSample d s).byteOrd = s.byteOrd := rfl
@[simp] theorem takeSample_pwr (d : Bit) (s : State) : (takeSample d s).pwr = s.pwr := rfl
@[simp] theorem takeSample_sck (d : Bit) (s : State) : (takeSample d s).sck = s.sck := rfl
@[simp] theorem takeSample_err (d : Bit) (s : State) : (takeSample d s).err = s.err := rfl
@[simp] theorem takeSample_rspV (d : Bit) (s : State) : (takeSample d s).rspV = s.rspV := rfl
@[simp] theorem takeSample_rspE (d : Bit) (s : State) : (takeSample d s).rspE = s.rspE := rfl
@[simp] theorem takeSample_rspD (d : Bit) (s : State) : (takeSample d s).rspD = s.rspD := rfl
@[simp] theorem takeSample_params (d : Bit) (s : State) : (takeSample d s).params = s.params := rfl
@[simp] theorem takeSample_inputs (d : Bit) (s : State) : (takeSample d s).inputs = s.inputs := rfl
@[simp] theorem takeSample_cycle (d : Bit) (s : State) : (takeSample d s).cycle = s.cycle := rfl
@[simp] theorem takeSample_trace (d : Bit) (s : State) : (takeSample d s).trace = s.trace := rfl

/-! `latchSample` -/
@[simp] theorem latchSample_st (s : State) : (latchSample s).st = s.st := rfl
@[simp] theorem latchSample_pcnt (s : State) : (latchSample s).pcnt = s.pcnt := rfl
@[simp] theorem latchSample_wcnt (s : State) : (latchSample s).wcnt = s.wcnt := rfl
@[simp] theorem latchSample_latch (s : State) : (latchSample s).latch = s.latch := rfl
@[simp] theorem latchSample_byReg (s : State) : (latchSample s).byReg = s.byReg := rfl
@[simp] theorem latchSample_raw (s : State) : (latchSample s).raw =
      if s.latch = 1#1 then orderBytes s.byteOrd s.byReg else s.raw := rfl
@[simp] theorem latchSample_gain (s : State) : (latchSample s).gain = s.gain := rfl
@[simp] theorem latchSample_bitOrd (s : State) : (latchSample s).bitOrd = s.bitOrd := rfl
@[simp] theorem latchSample_byteOrd (s : State) : (latchSample s).byteOrd = s.byteOrd := rfl
@[simp] theorem latchSample_pwr (s : State) : (latchSample s).pwr = s.pwr := rfl
@[simp] theorem latchSample_sck (s : State) : (latchSample s).sck = s.sck := rfl
@[simp] theorem latchSample_err (s : State) : (latchSample s).err = s.err := rfl
@[simp] theorem latchSample_rspV (s : State) : (latchSample s).rspV = s.rspV := rfl
@[simp] theorem latchSample_rspE (s : State) : (latchSample s).rspE = s.rspE := rfl
@[simp] theorem latchSample_rspD (s : State) : (latchSample s).rspD = s.rspD := rfl
@[simp] theorem latchSample_params (s : State) : (latchSample s).params = s.params := rfl
@[simp] theorem latchSample_inputs (s : State) : (latchSample s).inputs = s.inputs := rfl
@[simp] theorem latchSample_cycle (s : State) : (latchSample s).cycle = s.cycle := rfl
@[simp] theorem latchSample_trace (s : State) : (latchSample s).trace = s.trace := rfl

/-! `countPulse` -/
@[simp] theorem countPulse_st (s : State) : (countPulse s).st = s.st := rfl
@[simp] theorem countPulse_pcnt (s : State) : (countPulse s).pcnt = s.pcnt + 1#5 := rfl
@[simp] theorem countPulse_wcnt (s : State) : (countPulse s).wcnt = s.wcnt := rfl
@[simp] theorem countPulse_latch (s : State) : (countPulse s).latch = s.latch := rfl
@[simp] theorem countPulse_byReg (s : State) : (countPulse s).byReg = s.byReg := rfl
@[simp] theorem countPulse_raw (s : State) : (countPulse s).raw = s.raw := rfl
@[simp] theorem countPulse_gain (s : State) : (countPulse s).gain = s.gain := rfl
@[simp] theorem countPulse_bitOrd (s : State) : (countPulse s).bitOrd = s.bitOrd := rfl
@[simp] theorem countPulse_byteOrd (s : State) : (countPulse s).byteOrd = s.byteOrd := rfl
@[simp] theorem countPulse_pwr (s : State) : (countPulse s).pwr = s.pwr := rfl
@[simp] theorem countPulse_sck (s : State) : (countPulse s).sck = s.sck := rfl
@[simp] theorem countPulse_err (s : State) : (countPulse s).err = s.err := rfl
@[simp] theorem countPulse_rspV (s : State) : (countPulse s).rspV = s.rspV := rfl
@[simp] theorem countPulse_rspE (s : State) : (countPulse s).rspE = s.rspE := rfl
@[simp] theorem countPulse_rspD (s : State) : (countPulse s).rspD = s.rspD := rfl
@[simp] theorem countPulse_params (s : State) : (countPulse s).params = s.params := rfl
@[simp] theorem countPulse_inputs (s : State) : (countPulse s).inputs = s.inputs := rfl
@[simp] theorem countPulse_cycle (s : State) : (countPulse s).cycle = s.cycle := rfl
@[simp] theorem countPulse_trace (s : State) : (countPulse s).trace = s.trace := rfl

/-! `complete` -/
@[simp] theorem complete_st (e : ErrCode) (d : Byte) (s : State) : (complete e d s).st = .idle := rfl
@[simp] theorem complete_pcnt (e : ErrCode) (d : Byte) (s : State) : (complete e d s).pcnt = s.pcnt := rfl
@[simp] theorem complete_wcnt (e : ErrCode) (d : Byte) (s : State) : (complete e d s).wcnt = s.wcnt := rfl
@[simp] theorem complete_latch (e : ErrCode) (d : Byte) (s : State) : (complete e d s).latch = s.latch := rfl
@[simp] theorem complete_byReg (e : ErrCode) (d : Byte) (s : State) : (complete e d s).byReg = s.byReg := rfl
@[simp] theorem complete_raw (e : ErrCode) (d : Byte) (s : State) : (complete e d s).raw = s.raw := rfl
@[simp] theorem complete_gain (e : ErrCode) (d : Byte) (s : State) : (complete e d s).gain = s.gain := rfl
@[simp] theorem complete_bitOrd (e : ErrCode) (d : Byte) (s : State) : (complete e d s).bitOrd = s.bitOrd := rfl
@[simp] theorem complete_byteOrd (e : ErrCode) (d : Byte) (s : State) : (complete e d s).byteOrd = s.byteOrd := rfl
@[simp] theorem complete_pwr (e : ErrCode) (d : Byte) (s : State) : (complete e d s).pwr = s.pwr := rfl
@[simp] theorem complete_sck (e : ErrCode) (d : Byte) (s : State) : (complete e d s).sck = s.sck := rfl
@[simp] theorem complete_err (e : ErrCode) (d : Byte) (s : State) : (complete e d s).err = s.err := rfl
@[simp] theorem complete_rspV (e : ErrCode) (d : Byte) (s : State) : (complete e d s).rspV = 1#1 := rfl
@[simp] theorem complete_rspE (e : ErrCode) (d : Byte) (s : State) : (complete e d s).rspE = e := rfl
@[simp] theorem complete_rspD (e : ErrCode) (d : Byte) (s : State) : (complete e d s).rspD = d := rfl
@[simp] theorem complete_params (e : ErrCode) (d : Byte) (s : State) : (complete e d s).params = s.params := rfl
@[simp] theorem complete_inputs (e : ErrCode) (d : Byte) (s : State) : (complete e d s).inputs = s.inputs := rfl
@[simp] theorem complete_cycle (e : ErrCode) (d : Byte) (s : State) : (complete e d s).cycle = s.cycle := rfl
@[simp] theorem complete_trace (e : ErrCode) (d : Byte) (s : State) : (complete e d s).trace = s.trace := rfl

/-! `recordErr` -/
@[simp] theorem recordErr_st (c : ErrCode) (s : State) : (recordErr c s).st = s.st := rfl
@[simp] theorem recordErr_pcnt (c : ErrCode) (s : State) : (recordErr c s).pcnt = s.pcnt := rfl
@[simp] theorem recordErr_wcnt (c : ErrCode) (s : State) : (recordErr c s).wcnt = s.wcnt := rfl
@[simp] theorem recordErr_latch (c : ErrCode) (s : State) : (recordErr c s).latch = s.latch := rfl
@[simp] theorem recordErr_byReg (c : ErrCode) (s : State) : (recordErr c s).byReg = s.byReg := rfl
@[simp] theorem recordErr_raw (c : ErrCode) (s : State) : (recordErr c s).raw = s.raw := rfl
@[simp] theorem recordErr_gain (c : ErrCode) (s : State) : (recordErr c s).gain = s.gain := rfl
@[simp] theorem recordErr_bitOrd (c : ErrCode) (s : State) : (recordErr c s).bitOrd = s.bitOrd := rfl
@[simp] theorem recordErr_byteOrd (c : ErrCode) (s : State) : (recordErr c s).byteOrd = s.byteOrd := rfl
@[simp] theorem recordErr_pwr (c : ErrCode) (s : State) : (recordErr c s).pwr = s.pwr := rfl
@[simp] theorem recordErr_sck (c : ErrCode) (s : State) : (recordErr c s).sck = s.sck := rfl
@[simp] theorem recordErr_err (c : ErrCode) (s : State) : (recordErr c s).err = if s.err = 0#2 then c else s.err := rfl
@[simp] theorem recordErr_rspV (c : ErrCode) (s : State) : (recordErr c s).rspV = s.rspV := rfl
@[simp] theorem recordErr_rspE (c : ErrCode) (s : State) : (recordErr c s).rspE = s.rspE := rfl
@[simp] theorem recordErr_rspD (c : ErrCode) (s : State) : (recordErr c s).rspD = s.rspD := rfl
@[simp] theorem recordErr_params (c : ErrCode) (s : State) : (recordErr c s).params = s.params := rfl
@[simp] theorem recordErr_inputs (c : ErrCode) (s : State) : (recordErr c s).inputs = s.inputs := rfl
@[simp] theorem recordErr_cycle (c : ErrCode) (s : State) : (recordErr c s).cycle = s.cycle := rfl
@[simp] theorem recordErr_trace (c : ErrCode) (s : State) : (recordErr c s).trace = s.trace := rfl

/-! `refuse` -/
@[simp] theorem refuse_st (c : ErrCode) (s : State) : (refuse c s).st = .idle := rfl
@[simp] theorem refuse_pcnt (c : ErrCode) (s : State) : (refuse c s).pcnt = s.pcnt := rfl
@[simp] theorem refuse_wcnt (c : ErrCode) (s : State) : (refuse c s).wcnt = s.wcnt := rfl
@[simp] theorem refuse_latch (c : ErrCode) (s : State) : (refuse c s).latch = s.latch := rfl
@[simp] theorem refuse_byReg (c : ErrCode) (s : State) : (refuse c s).byReg = s.byReg := rfl
@[simp] theorem refuse_raw (c : ErrCode) (s : State) : (refuse c s).raw = s.raw := rfl
@[simp] theorem refuse_gain (c : ErrCode) (s : State) : (refuse c s).gain = s.gain := rfl
@[simp] theorem refuse_bitOrd (c : ErrCode) (s : State) : (refuse c s).bitOrd = s.bitOrd := rfl
@[simp] theorem refuse_byteOrd (c : ErrCode) (s : State) : (refuse c s).byteOrd = s.byteOrd := rfl
@[simp] theorem refuse_pwr (c : ErrCode) (s : State) : (refuse c s).pwr = s.pwr := rfl
@[simp] theorem refuse_sck (c : ErrCode) (s : State) : (refuse c s).sck = s.sck := rfl
@[simp] theorem refuse_err (c : ErrCode) (s : State) : (refuse c s).err = if s.err = 0#2 then c else s.err := rfl
@[simp] theorem refuse_rspV (c : ErrCode) (s : State) : (refuse c s).rspV = 1#1 := rfl
@[simp] theorem refuse_rspE (c : ErrCode) (s : State) : (refuse c s).rspE = c := rfl
@[simp] theorem refuse_rspD (c : ErrCode) (s : State) : (refuse c s).rspD = 0#8 := rfl
@[simp] theorem refuse_params (c : ErrCode) (s : State) : (refuse c s).params = s.params := rfl
@[simp] theorem refuse_inputs (c : ErrCode) (s : State) : (refuse c s).inputs = s.inputs := rfl
@[simp] theorem refuse_cycle (c : ErrCode) (s : State) : (refuse c s).cycle = s.cycle := rfl
@[simp] theorem refuse_trace (c : ErrCode) (s : State) : (refuse c s).trace = s.trace := rfl

/-! `writeGain` -/
@[simp] theorem writeGain_st (c : GainCode) (s : State) : (writeGain c s).st = s.st := rfl
@[simp] theorem writeGain_pcnt (c : GainCode) (s : State) : (writeGain c s).pcnt = s.pcnt := rfl
@[simp] theorem writeGain_wcnt (c : GainCode) (s : State) : (writeGain c s).wcnt = s.wcnt := rfl
@[simp] theorem writeGain_latch (c : GainCode) (s : State) : (writeGain c s).latch = s.latch := rfl
@[simp] theorem writeGain_byReg (c : GainCode) (s : State) : (writeGain c s).byReg = s.byReg := rfl
@[simp] theorem writeGain_raw (c : GainCode) (s : State) : (writeGain c s).raw = s.raw := rfl
@[simp] theorem writeGain_gain (c : GainCode) (s : State) : (writeGain c s).gain = c := rfl
@[simp] theorem writeGain_bitOrd (c : GainCode) (s : State) : (writeGain c s).bitOrd = s.bitOrd := rfl
@[simp] theorem writeGain_byteOrd (c : GainCode) (s : State) : (writeGain c s).byteOrd = s.byteOrd := rfl
@[simp] theorem writeGain_pwr (c : GainCode) (s : State) : (writeGain c s).pwr = s.pwr := rfl
@[simp] theorem writeGain_sck (c : GainCode) (s : State) : (writeGain c s).sck = s.sck := rfl
@[simp] theorem writeGain_err (c : GainCode) (s : State) : (writeGain c s).err = s.err := rfl
@[simp] theorem writeGain_rspV (c : GainCode) (s : State) : (writeGain c s).rspV = s.rspV := rfl
@[simp] theorem writeGain_rspE (c : GainCode) (s : State) : (writeGain c s).rspE = s.rspE := rfl
@[simp] theorem writeGain_rspD (c : GainCode) (s : State) : (writeGain c s).rspD = s.rspD := rfl
@[simp] theorem writeGain_params (c : GainCode) (s : State) : (writeGain c s).params = s.params := rfl
@[simp] theorem writeGain_inputs (c : GainCode) (s : State) : (writeGain c s).inputs = s.inputs := rfl
@[simp] theorem writeGain_cycle (c : GainCode) (s : State) : (writeGain c s).cycle = s.cycle := rfl
@[simp] theorem writeGain_trace (c : GainCode) (s : State) : (writeGain c s).trace = s.trace := rfl

/-! `writeFormat` -/
@[simp] theorem writeFormat_st (y b : Bit) (s : State) : (writeFormat y b s).st = s.st := rfl
@[simp] theorem writeFormat_pcnt (y b : Bit) (s : State) : (writeFormat y b s).pcnt = s.pcnt := rfl
@[simp] theorem writeFormat_wcnt (y b : Bit) (s : State) : (writeFormat y b s).wcnt = s.wcnt := rfl
@[simp] theorem writeFormat_latch (y b : Bit) (s : State) : (writeFormat y b s).latch = s.latch := rfl
@[simp] theorem writeFormat_byReg (y b : Bit) (s : State) : (writeFormat y b s).byReg = s.byReg := rfl
@[simp] theorem writeFormat_raw (y b : Bit) (s : State) : (writeFormat y b s).raw = s.raw := rfl
@[simp] theorem writeFormat_gain (y b : Bit) (s : State) : (writeFormat y b s).gain = s.gain := rfl
@[simp] theorem writeFormat_bitOrd (y b : Bit) (s : State) : (writeFormat y b s).bitOrd = b := rfl
@[simp] theorem writeFormat_byteOrd (y b : Bit) (s : State) : (writeFormat y b s).byteOrd = y := rfl
@[simp] theorem writeFormat_pwr (y b : Bit) (s : State) : (writeFormat y b s).pwr = s.pwr := rfl
@[simp] theorem writeFormat_sck (y b : Bit) (s : State) : (writeFormat y b s).sck = s.sck := rfl
@[simp] theorem writeFormat_err (y b : Bit) (s : State) : (writeFormat y b s).err = s.err := rfl
@[simp] theorem writeFormat_rspV (y b : Bit) (s : State) : (writeFormat y b s).rspV = s.rspV := rfl
@[simp] theorem writeFormat_rspE (y b : Bit) (s : State) : (writeFormat y b s).rspE = s.rspE := rfl
@[simp] theorem writeFormat_rspD (y b : Bit) (s : State) : (writeFormat y b s).rspD = s.rspD := rfl
@[simp] theorem writeFormat_params (y b : Bit) (s : State) : (writeFormat y b s).params = s.params := rfl
@[simp] theorem writeFormat_inputs (y b : Bit) (s : State) : (writeFormat y b s).inputs = s.inputs := rfl
@[simp] theorem writeFormat_cycle (y b : Bit) (s : State) : (writeFormat y b s).cycle = s.cycle := rfl
@[simp] theorem writeFormat_trace (y b : Bit) (s : State) : (writeFormat y b s).trace = s.trace := rfl

/-! `writePwr` -/
@[simp] theorem writePwr_st (p : Bit) (s : State) : (writePwr p s).st = s.st := rfl
@[simp] theorem writePwr_pcnt (p : Bit) (s : State) : (writePwr p s).pcnt = s.pcnt := rfl
@[simp] theorem writePwr_wcnt (p : Bit) (s : State) : (writePwr p s).wcnt = s.wcnt := rfl
@[simp] theorem writePwr_latch (p : Bit) (s : State) : (writePwr p s).latch = s.latch := rfl
@[simp] theorem writePwr_byReg (p : Bit) (s : State) : (writePwr p s).byReg = s.byReg := rfl
@[simp] theorem writePwr_raw (p : Bit) (s : State) : (writePwr p s).raw = s.raw := rfl
@[simp] theorem writePwr_gain (p : Bit) (s : State) : (writePwr p s).gain = s.gain := rfl
@[simp] theorem writePwr_bitOrd (p : Bit) (s : State) : (writePwr p s).bitOrd = s.bitOrd := rfl
@[simp] theorem writePwr_byteOrd (p : Bit) (s : State) : (writePwr p s).byteOrd = s.byteOrd := rfl
@[simp] theorem writePwr_pwr (p : Bit) (s : State) : (writePwr p s).pwr = p := rfl
@[simp] theorem writePwr_sck (p : Bit) (s : State) : (writePwr p s).sck = s.sck := rfl
@[simp] theorem writePwr_err (p : Bit) (s : State) : (writePwr p s).err = s.err := rfl
@[simp] theorem writePwr_rspV (p : Bit) (s : State) : (writePwr p s).rspV = s.rspV := rfl
@[simp] theorem writePwr_rspE (p : Bit) (s : State) : (writePwr p s).rspE = s.rspE := rfl
@[simp] theorem writePwr_rspD (p : Bit) (s : State) : (writePwr p s).rspD = s.rspD := rfl
@[simp] theorem writePwr_params (p : Bit) (s : State) : (writePwr p s).params = s.params := rfl
@[simp] theorem writePwr_inputs (p : Bit) (s : State) : (writePwr p s).inputs = s.inputs := rfl
@[simp] theorem writePwr_cycle (p : Bit) (s : State) : (writePwr p s).cycle = s.cycle := rfl
@[simp] theorem writePwr_trace (p : Bit) (s : State) : (writePwr p s).trace = s.trace := rfl

/-! `offerWord` -/
@[simp] theorem offerWord_st (w : CmdWord) (s : State) : (offerWord w s).st = .idle := rfl
@[simp] theorem offerWord_pcnt (w : CmdWord) (s : State) : (offerWord w s).pcnt = s.pcnt := rfl
@[simp] theorem offerWord_wcnt (w : CmdWord) (s : State) : (offerWord w s).wcnt = 0 := rfl
@[simp] theorem offerWord_latch (w : CmdWord) (s : State) : (offerWord w s).latch = s.latch := rfl
@[simp] theorem offerWord_byReg (w : CmdWord) (s : State) : (offerWord w s).byReg = s.byReg := rfl
@[simp] theorem offerWord_raw (w : CmdWord) (s : State) : (offerWord w s).raw = s.raw := rfl
@[simp] theorem offerWord_gain (w : CmdWord) (s : State) : (offerWord w s).gain = s.gain := rfl
@[simp] theorem offerWord_bitOrd (w : CmdWord) (s : State) : (offerWord w s).bitOrd = s.bitOrd := rfl
@[simp] theorem offerWord_byteOrd (w : CmdWord) (s : State) : (offerWord w s).byteOrd = s.byteOrd := rfl
@[simp] theorem offerWord_pwr (w : CmdWord) (s : State) : (offerWord w s).pwr = s.pwr := rfl
@[simp] theorem offerWord_sck (w : CmdWord) (s : State) : (offerWord w s).sck = s.sck := rfl
@[simp] theorem offerWord_err (w : CmdWord) (s : State) : (offerWord w s).err = s.err := rfl
@[simp] theorem offerWord_rspV (w : CmdWord) (s : State) : (offerWord w s).rspV = s.rspV := rfl
@[simp] theorem offerWord_rspE (w : CmdWord) (s : State) : (offerWord w s).rspE = s.rspE := rfl
@[simp] theorem offerWord_rspD (w : CmdWord) (s : State) : (offerWord w s).rspD = s.rspD := rfl
@[simp] theorem offerWord_params (w : CmdWord) (s : State) : (offerWord w s).params = s.params := rfl
@[simp] theorem offerWord_inputs (w : CmdWord) (s : State) : (offerWord w s).inputs = { rst := 0#1, cmdValid := 1#1, cmd := w, dout := 0#1 } :: s.inputs := rfl
@[simp] theorem offerWord_cycle (w : CmdWord) (s : State) : (offerWord w s).cycle = s.cycle := rfl
@[simp] theorem offerWord_trace (w : CmdWord) (s : State) : (offerWord w s).trace = s.trace := rfl

/-! `resetRegs` -/
@[simp] theorem resetRegs_st (s : State) : (resetRegs s).st = .idle := rfl
@[simp] theorem resetRegs_pcnt (s : State) : (resetRegs s).pcnt = 0#5 := rfl
@[simp] theorem resetRegs_wcnt (s : State) : (resetRegs s).wcnt = 0 := rfl
@[simp] theorem resetRegs_latch (s : State) : (resetRegs s).latch = 0#1 := rfl
@[simp] theorem resetRegs_byReg (s : State) : (resetRegs s).byReg = { b0 := 0#8, b1 := 0#8, b2 := 0#8 } := rfl
@[simp] theorem resetRegs_raw (s : State) : (resetRegs s).raw = { b0 := 0#8, b1 := 0#8, b2 := 0#8 } := rfl
@[simp] theorem resetRegs_gain (s : State) : (resetRegs s).gain = 1#2 := rfl
@[simp] theorem resetRegs_bitOrd (s : State) : (resetRegs s).bitOrd = 0#1 := rfl
@[simp] theorem resetRegs_byteOrd (s : State) : (resetRegs s).byteOrd = 0#1 := rfl
@[simp] theorem resetRegs_pwr (s : State) : (resetRegs s).pwr = 0#1 := rfl
@[simp] theorem resetRegs_sck (s : State) : (resetRegs s).sck = 0#1 := rfl
@[simp] theorem resetRegs_err (s : State) : (resetRegs s).err = 0#2 := rfl
@[simp] theorem resetRegs_rspV (s : State) : (resetRegs s).rspV = 0#1 := rfl
@[simp] theorem resetRegs_rspE (s : State) : (resetRegs s).rspE = 0#2 := rfl
@[simp] theorem resetRegs_rspD (s : State) : (resetRegs s).rspD = 0#8 := rfl
@[simp] theorem resetRegs_params (s : State) : (resetRegs s).params = s.params := rfl
@[simp] theorem resetRegs_inputs (s : State) : (resetRegs s).inputs = s.inputs := rfl
@[simp] theorem resetRegs_cycle (s : State) : (resetRegs s).cycle = s.cycle := rfl
@[simp] theorem resetRegs_trace (s : State) : (resetRegs s).trace = s.trace := rfl

end Sys2Proof.Machine
end

