-- ==== Sys2Proof/Laws/Step.lean ====
section
/-! SUPPORT. What one step can do, said once: the input levels, the meanings, the five kinds of step (spec R156), and
the inversion of `step` that later proofs cite. -/

namespace Sys2Proof.Machine

/-! ### Bits and input levels -/

theorem bit_ne_one {b : Bit} : b ≠ 1#1 ↔ b = 0#1 := by
  revert b; decide

theorem bit_ne_zero {b : Bit} : b ≠ 0#1 ↔ b = 1#1 := by
  revert b; decide

theorem inputAt_eq (s : State) (n : Nat) :
    s.inputAt n = (s.inputs[n]?).getD (Input.free (s.cycle + n)) := by
  unfold State.inputAt
  cases s.inputs[n]? <;> rfl

/-- The input levels depend on the script and the count of steps only. -/
theorem inputAt_congr {s t : State} {k : Nat} (hi : t.inputs = s.inputs.drop k) (hc : t.cycle = s.cycle + k) (n : Nat) :
    t.inputAt n = s.inputAt (k + n) := by
  rw [inputAt_eq, inputAt_eq, hi, hc, List.getElem?_drop, Nat.add_assoc]

@[simp] theorem inputAt_advance (s : State) (n : Nat) : (advance s).inputAt n = s.inputAt (n + 1) := by
  rw [inputAt_congr (s := s) (k := 1) (by simp) (by simp), Nat.add_comm]

@[simp] theorem inputAt_beginStep (s : State) (n : Nat) : (beginStep s).inputAt n = s.inputAt (n + 1) := by
  rw [inputAt_congr (s := s) (k := 1) (by simp) (by simp), Nat.add_comm]

/-! ### The meanings: `exec` answers a next state for every command in every state -/

theorem execRead_low {s : State} (h : s.sck = 0#1) : execRead s = .next (startRead 1#1 s) := by
  simp [execRead, h]

theorem execRead_high {s : State} (h : s.sck = 1#1) : execRead s = .next (refuse errSckHigh s) := by
  simp [execRead, h]

theorem execSetgain_low {s : State} (sel : Byte) (h : s.sck = 0#1) :
    execSetgain sel s = .next (startRead 0#1 (writeGain (gainCode sel) s)) := by
  simp [execSetgain, h]

theorem execSetgain_high {s : State} (sel : Byte) (h : s.sck = 1#1) :
    execSetgain sel s = .next (refuse errSckHigh s) := by
  simp [execSetgain, h]

/-- What dispatching a word can answer: a refusal, the start of a read, an immediate completion, the start of a power
sequence; always a next state. -/
theorem dispatchWord_cases (w : CmdWord) (s : State) :
    ((opField w = 0x1#4 ∨ opField w = 0x2#4) ∧ s.sck = 1#1 ∧ dispatchWord w s = .next (refuse errSckHigh s)) ∨
    (opField w = 0x1#4 ∧ s.sck = 0#1 ∧ dispatchWord w s = .next (startRead 1#1 s)) ∨
    (opField w = 0x2#4 ∧ s.sck = 0#1 ∧
      dispatchWord w s = .next (startRead 0#1 (writeGain (gainCode (argField w)) s))) ∨
    (opField w = 0x3#4 ∧
      dispatchWord w s = .next (complete 0#2 (gainSel (Config.gainSelOfZero s.cycle) s.gain) s)) ∨
    (opField w = 0x4#4 ∧ dispatchWord w s = .next (complete 0#2 0#8
      (writeFormat ((argField w).extractLsb' 1 1) ((argField w).extractLsb' 0 1) s))) ∨
    (opField w = 0x5#4 ∧ dispatchWord w s = .next (goto .pdLo s)) ∨
    (opField w = 0x6#4 ∧ dispatchWord w s = .next (goto .puLo s)) ∨
    ((∀ op ∈ [0x1#4, 0x2#4, 0x3#4, 0x4#4, 0x5#4, 0x6#4], opField w ≠ op) ∧
      dispatchWord w s = .next (refuse errIllegal s)) := by
  unfold dispatchWord decode
  rcases BitVec.eq_zero_or_eq_one s.sck with hs | hs
  · split_ifs with h1 h2 h3 h4 h5 h6 <;> simp_all [exec, execRead, execSetgain, execGetgain, execSetfmt, execPwrdn, execPwrup]
  · split_ifs with h1 h2 h3 h4 h5 h6 <;> simp_all [exec, execRead, execSetgain, execGetgain, execSetfmt, execPwrdn, execPwrup]

/-! ### The kinds of step -/

theorem step_reset {s : State} (hr : (s.inputAt 0).rst = 1#1) : step s = .next (resetRegs (advance s)) := by
  simp [step, stepKind, State.input, hr]

theorem step_stall {s : State} (hr : (s.inputAt 0).rst = 0#1) (hw : s.wcnt ≠ 0) :
    step s = .next (stall (beginStep s)) := by
  simp [step, stepKind, State.input, hr, hw]

theorem step_nothing {s : State} (hr : (s.inputAt 0).rst = 0#1) (hw : s.wcnt = 0) (hst : s.st = .idle)
    (hv : (s.inputAt 0).cmdValid = 0#1) : step s = .next (beginStep s) := by
  simp [step, stepKind, State.input, hr, hw, hst, hv]

theorem step_accept {s : State} (hr : (s.inputAt 0).rst = 0#1) (hw : s.wcnt = 0) (hst : s.st = .idle)
    (hv : (s.inputAt 0).cmdValid = 1#1) : step s = dispatchWord (s.inputAt 0).cmd (beginStep s) := by
  simp [step, stepKind, State.input, hr, hw, hst, hv]

theorem step_act {s : State} (hr : (s.inputAt 0).rst = 0#1) (hw : s.wcnt = 0) (hst : s.st ≠ .idle) :
    step s = .next (act (s.inputAt 0) (beginStep s)) := by
  simp [step, stepKind, State.input, hr, hw, hst]

/-- Every step is one of five. -/
theorem step_cases (s : State) :
    ((s.inputAt 0).rst = 1#1 ∧ step s = .next (resetRegs (advance s))) ∨
    ((s.inputAt 0).rst = 0#1 ∧ s.wcnt ≠ 0 ∧ step s = .next (stall (beginStep s))) ∨
    ((s.inputAt 0).rst = 0#1 ∧ s.wcnt = 0 ∧ s.st = .idle ∧ (s.inputAt 0).cmdValid = 0#1 ∧
      step s = .next (beginStep s)) ∨
    ((s.inputAt 0).rst = 0#1 ∧ s.wcnt = 0 ∧ s.st = .idle ∧ (s.inputAt 0).cmdValid = 1#1 ∧
      step s = dispatchWord (s.inputAt 0).cmd (beginStep s)) ∨
    ((s.inputAt 0).rst = 0#1 ∧ s.wcnt = 0 ∧ s.st ≠ .idle ∧
      step s = .next (act (s.inputAt 0) (beginStep s))) := by
  rcases BitVec.eq_zero_or_eq_one (s.inputAt 0).rst with hr | hr
  · by_cases hw : s.wcnt = 0
    · by_cases hst : s.st = .idle
      · rcases BitVec.eq_zero_or_eq_one (s.inputAt 0).cmdValid with hv | hv
        · exact .inr (.inr (.inl ⟨hr, hw, hst, hv, step_nothing hr hw hst hv⟩))
        · exact .inr (.inr (.inr (.inl ⟨hr, hw, hst, hv, step_accept hr hw hst hv⟩)))
      · exact .inr (.inr (.inr (.inr ⟨hr, hw, hst, step_act hr hw hst⟩)))
    · exact .inr (.inl ⟨hr, hw, step_stall hr hw⟩)
  · exact .inl ⟨hr, step_reset hr⟩

end Sys2Proof.Machine
end

