-- ==== Sys2Proof/Laws/Run.lean ====
section
/-! SUPPORT. Runs of several steps: every step answers a next state, so a run is an iteration; what a stall of several
steps, one pulse with its sample, and the wait for ready do as a whole (spec R93, R95 to R99). -/

namespace Sys2Proof.Machine

/-! ### A run is an iteration -/

theorem dispatchWord_next (w : CmdWord) (s : State) : ∃ t, dispatchWord w s = .next t := by
  rcases dispatchWord_cases w s with h | h | h | h | h | h | h | h
  · exact ⟨_, h.2.2⟩
  · exact ⟨_, h.2.2⟩
  · exact ⟨_, h.2.2⟩
  · exact ⟨_, h.2⟩
  · exact ⟨_, h.2⟩
  · exact ⟨_, h.2⟩
  · exact ⟨_, h.2⟩
  · exact ⟨_, h.2⟩

theorem step_next (s : State) : ∃ t, step s = .next t := by
  rcases step_cases s with h | h | h | h | h
  · exact ⟨_, h.2⟩
  · exact ⟨_, h.2.2⟩
  · exact ⟨_, h.2.2.2.2⟩
  · obtain ⟨t, ht⟩ := dispatchWord_next (s.inputAt 0).cmd (beginStep s)
    exact ⟨t, h.2.2.2.2.trans ht⟩
  · exact ⟨_, h.2.2.2⟩

/-- The next state as a function. -/
def tick (s : State) : State :=
  match step s with
  | .next t => t
  | .fault _ => s
  | .refused _ => s

theorem step_eq_tick (s : State) : step s = .next (tick s) := by
  obtain ⟨t, ht⟩ := step_next s
  simp [tick, ht]

theorem tick_of_step {s t : State} (h : step s = .next t) : tick s = t := by
  simp [tick, h]

theorem run_eq_tick (k : Nat) (s : State) : run k s = .next (tick^[k] s) := by
  induction k generalizing s with
  | zero => rfl
  | succ k ih =>
    have : run (k + 1) s = run k (tick s) := by
      obtain ⟨t, ht⟩ := step_next s
      simp only [run, Host.Core.run, Sys2Proof.core, tick_of_step ht, ht]
    rw [this, ih, Function.iterate_succ_apply]

theorem tick_iterate_add {j k : Nat} {s t u : State} (h1 : tick^[j] s = t) (h2 : tick^[k] t = u) :
    tick^[j + k] s = u := by
  rw [Nat.add_comm, Function.iterate_add_apply, h1, h2]

/-! ### Input levels along a run -/

/-- `t` stands `k` steps after `s` in the script. -/
def Later (k : Nat) (s t : State) : Prop := t.inputs = s.inputs.drop k ∧ t.cycle = s.cycle + k

theorem Later.inputAt {k : Nat} {s t : State} (h : Later k s t) (n : Nat) : t.inputAt n = s.inputAt (k + n) :=
  inputAt_congr h.1 h.2 n

theorem Later.trans {j k : Nat} {s t u : State} (h1 : Later j s t) (h2 : Later k t u) : Later (j + k) s u := by
  refine ⟨?_, ?_⟩
  · rw [h2.1, h1.1, List.drop_drop]
  · rw [h2.2, h1.2, Nat.add_assoc]

theorem NoReset.mono {j k : Nat} {s : State} (h : NoReset k s) (hjk : j ≤ k) : NoReset j s :=
  fun i hi => h i (by omega)

theorem NoReset.later {j k : Nat} {s t : State} (h : NoReset (j + k) s) (hl : Later j s t) : NoReset k t :=
  fun i hi => by rw [hl.inputAt]; exact h _ (by omega)

/-! ### Stalls (R93) -/

/-- `n` steps of waiting leave everything but the wait counter, the script and the count of steps. -/
theorem tick_stalls (n : Nat) (s : State) (hw : s.wcnt = n) (hv : s.rspV = 0#1) (hq : NoReset n s) :
    tick^[n] s = { s with wcnt := 0, inputs := s.inputs.drop n, cycle := s.cycle + n } := by
  induction n generalizing s with
  | zero => cases s; simp_all
  | succ n ih =>
    rw [Function.iterate_succ_apply, tick_of_step (step_stall (hq 0 (by omega)) (by omega)),
      ih _ (by simp [hw]) (by simp)
        (fun i hi => by
          rw [inputAt_congr (s := s) (k := 1) (by simp) (by simp), Nat.add_comm]; exact hq _ (by omega))]
    cases s
    simp_all [stall, beginStep, advance, Nat.add_assoc, Nat.add_comm 1 n]

/-! ### One pulse with its sample (R96 to R99) -/

/-- The block after one pulse and its sample `d`, `P` steps later. -/
def afterPulse (P : Nat) (d : Bit) (s : State) : State :=
  { s with
    st := afterSample s
    pcnt := s.pcnt + 1#5
    byReg := if s.pcnt.toNat < 24 then shiftInto s.bitOrd (s.pcnt.toNat / 8) d s.byReg else s.byReg
    sck := 0#1
    inputs := s.inputs.drop P
    cycle := s.cycle + P
    trace := s.trace ++ [.set 1#1, .set 0#1, .get d] }

theorem tick_pulse (s : State) (hst : s.st = .hi) (hw : s.wcnt = 0) (hv : s.rspV = 0#1)
    (hl : s.params.legal) (hq : NoReset (pulseSteps s.params) s) :
    tick^[pulseSteps s.params] s =
      afterPulse (pulseSteps s.params) (s.inputAt (s.params.tHi + s.params.tLo)).dout s := by
  obtain ⟨h1, h2, -⟩ := hl
  obtain ⟨a, ha⟩ : ∃ a, s.params.tHi = a + 1 := ⟨s.params.tHi - 1, by omega⟩
  obtain ⟨b, hb⟩ : ∃ b, s.params.tLo = b + 1 := ⟨s.params.tLo - 1, by omega⟩
  have hP : pulseSteps s.params = 1 + (a + (1 + (b + 1))) := by simp only [pulseSteps, ha, hb]; omega
  rw [hP] at hq ⊢
  -- HI
  let s1 := doHi (beginStep s)
  have e1 : tick^[1] s = s1 := by
    show tick s = s1
    rw [tick_of_step (step_act (hq 0 (by omega)) hw (by simp [hst]))]
    simp [act, hst, s1]
  have l1 : Later 1 s s1 := ⟨by simp [s1, doHi], by simp [s1, doHi]⟩
  refine tick_iterate_add e1 ?_
  -- the stalls of the high phase
  have e2 := tick_stalls a s1 (by simp [s1, doHi, ha]) (by simp [s1, doHi]) ((hq.mono (by omega)).later l1)
  refine tick_iterate_add e2 ?_
  -- LO
  generalize hs2 : ({ s1 with wcnt := 0, inputs := s1.inputs.drop a, cycle := s1.cycle + a } : State) = s2
  have l2 : Later (1 + a) s s2 := l1.trans (by subst hs2; exact ⟨rfl, rfl⟩)
  let s3 := doLo (beginStep s2)
  have e3 : tick^[1] s2 = s3 := by
    show tick s2 = s3
    have hst2 : s2.st = .lo := by subst hs2; simp [s1, doHi]
    rw [tick_of_step (step_act (by rw [l2.inputAt]; exact hq _ (by omega)) (by subst hs2; rfl) (by simp [hst2]))]
    simp [act, hst2, s3]
  have l3 : Later (1 + a + 1) s s3 := l2.trans ⟨by simp [s3, doLo], by simp [s3, doLo]⟩
  refine tick_iterate_add e3 ?_
  -- the stalls of the low phase
  have e4 := tick_stalls b s3 (by subst hs2; simp [s3, doLo, s1, doHi, hb]) (by simp [s3, doLo])
    ((hq.mono (by omega : 1 + a + 1 + b ≤ _)).later l3)
  refine tick_iterate_add e4 ?_
  generalize hs4 : ({ s3 with wcnt := 0, inputs := s3.inputs.drop b, cycle := s3.cycle + b } : State) = s4
  have l4 : Later (1 + a + 1 + b) s s4 := l3.trans (by subst hs4; exact ⟨rfl, rfl⟩)
  -- SMP
  show tick s4 = _
  have hst4 : s4.st = .smp := by subst hs4; simp [s3, doLo]
  rw [tick_of_step (step_act (by rw [l4.inputAt]; exact hq _ (by omega)) (by subst hs4; rfl) (by simp [hst4]))]
  have hin : s4.inputAt 0 = s.inputAt (s.params.tHi + s.params.tLo) := by
    rw [l4.inputAt]; congr 1; omega
  rw [hin]
  generalize s.inputAt (s.params.tHi + s.params.tLo) = i
  clear hin hst4 l4 l3 l2 l1 e1 e2 e3 e4 hq hP
  subst hs4 hs2
  simp only [act, doSmp, takeSample, afterPulse, afterSample, s3, doLo, s1, doHi, beginStep, advance, lineGet, lineSet,
    goto, loadWait, countPulse]
  split_ifs <;> simp_all [Nat.add_comm, Nat.add_left_comm]

/-! ### The wait for ready (R95) -/

/-- Polls answered 1 leave everything but the trace, the script and the count of steps. -/
theorem tick_polls_not_ready (n : Nat) (s : State) (hst : s.st = .poll) (hw : s.wcnt = 0) (hv : s.rspV = 0#1)
    (hq : NoReset n s) (hd : ∀ j < n, (s.inputAt j).dout = 1#1) :
    tick^[n] s = { s with inputs := s.inputs.drop n, cycle := s.cycle + n,
                          trace := s.trace ++ List.replicate n (.get 1#1) } := by
  induction n generalizing s with
  | zero => cases s; simp
  | succ n ih =>
    have e : tick s = { s with inputs := s.inputs.drop 1, cycle := s.cycle + 1, trace := s.trace ++ [.get 1#1] } := by
      rw [tick_of_step (step_act (hq 0 (by omega)) hw (by simp [hst]))]
      simp only [act, doPoll, beginStep_st, hst, hd 0 (by omega)]
      cases s
      simp_all [lineGet, beginStep, advance, goto]
    have l : Later 1 s (tick s) := by rw [e]; exact ⟨rfl, rfl⟩
    rw [Function.iterate_succ_apply,
      ih (tick s) (by rw [e]; exact hst) (by rw [e]; exact hw) (by rw [e]; exact hv)
        ((hq.mono (by omega)).later l)
        (fun j hj => by rw [l.inputAt]; exact hd _ (by omega)), e]
    simp [List.replicate_succ, Nat.add_assoc, Nat.add_comm 1 n]

/-- The poll answered 0 ends the wait. -/
theorem tick_poll_ready (s : State) (hst : s.st = .poll) (hw : s.wcnt = 0) (hv : s.rspV = 0#1)
    (hq : NoReset 1 s) (hd : (s.inputAt 0).dout = 0#1) :
    tick s = { s with st := .hi, inputs := s.inputs.drop 1, cycle := s.cycle + 1, trace := s.trace ++ [.get 0#1] } := by
  rw [tick_of_step (step_act (hq 0 (by omega)) hw (by simp [hst]))]
  simp only [act, doPoll, beginStep_st, hst, hd]
  cases s
  simp_all [lineGet, beginStep, advance, goto]

/-! ### The pulses of a frame, and the read sequence as a whole -/

/-- The working bytes after the first `k` pulses of a frame with the answers `a` (R98, R105). -/
def bytesAfter (order : Bit) (a : Nat → Bit) : Nat → Bytes3
  | 0 => { b0 := 0#8, b1 := 0#8, b2 := 0#8 }
  | k + 1 =>
    if k < 24 then shiftInto order (k / 8) (a k) (bytesAfter order a k) else bytesAfter order a k

/-- The line events of the first `k` pulses. -/
def pulseTrace (a : Nat → Bit) (k : Nat) : List LineEvent :=
  (List.range k).flatMap (fun j => [.set 1#1, .set 0#1, .get (a j)])

theorem pulseTrace_succ (a : Nat → Bit) (k : Nat) :
    pulseTrace a (k + 1) = pulseTrace a k ++ [.set 1#1, .set 0#1, .get (a k)] := by
  simp [pulseTrace, List.range_succ]

theorem framePulses_le (g : GainCode) : framePulses g ≤ 27 := by
  have := g.isLt; simp only [framePulses]; omega

/-- The block `k` pulses into a frame that began at `s`. -/
def inFrame (k : Nat) (a : Nat → Bit) (s : State) : State :=
  { s with
    st := if k = framePulses s.gain then .fin else .hi
    pcnt := BitVec.ofNat 5 k
    byReg := bytesAfter s.bitOrd a k
    sck := 0#1
    inputs := s.inputs.drop (k * pulseSteps s.params)
    cycle := s.cycle + k * pulseSteps s.params
    trace := s.trace ++ pulseTrace a k }

theorem tick_pulses (s : State) (hst : s.st = .hi) (hw : s.wcnt = 0) (hv : s.rspV = 0#1) (hsck : s.sck = 0#1)
    (hp : s.pcnt = 0#5) (hb : s.byReg = { b0 := 0#8, b1 := 0#8, b2 := 0#8 }) (hl : s.params.legal) (k : Nat)
    (hk : k ≤ framePulses s.gain) (hq : NoReset (k * pulseSteps s.params) s) :
    tick^[k * pulseSteps s.params] s =
      inFrame k (fun j => (s.inputAt (j * pulseSteps s.params + (s.params.tHi + s.params.tLo))).dout) s := by
  induction k with
  | zero =>
    have : ¬ 0 = framePulses s.gain := by simp only [framePulses]; omega
    cases s; simp_all [inFrame, bytesAfter, pulseTrace]
  | succ k ih =>
    have hF := framePulses_le s.gain
    rw [Nat.succ_mul] at hq ⊢
    refine tick_iterate_add (ih (by omega) (hq.mono (by omega))) ?_
    generalize hu : inFrame k _ s = u
    have hne : ¬ k = framePulses s.gain := by omega
    have hlater : Later (k * pulseSteps s.params) s u := by subst hu; exact ⟨rfl, rfl⟩
    have hP : u.params = s.params := by subst hu; rfl
    have hpc : u.pcnt.toNat = k := by
      subst hu; simp only [inFrame, BitVec.toNat_ofNat]; omega
    have := tick_pulse u (by subst hu; simp [inFrame, hne]) (by subst hu; exact hw) (by subst hu; exact hv)
      (by rw [hP]; exact hl) (by rw [hP]; exact hq.later hlater)
    rw [hP, hlater.inputAt] at this
    rw [this]
    simp only [afterPulse, afterSample, hpc]
    subst hu
    simp only [inFrame, pulseTrace_succ, bytesAfter, List.append_assoc, List.drop_drop]
    congr 1
    · apply BitVec.eq_of_toNat_eq; simp
    · rw [Nat.succ_mul]
    · rw [Nat.succ_mul, Nat.add_assoc]

/-- The read sequence from its first poll to its response (R95 to R101), whoever started it. -/
theorem tick_read (s : State) (n : Nat) (hst : s.st = .poll) (hw : s.wcnt = 0) (hv : s.rspV = 0#1) (hsck : s.sck = 0#1)
    (hp : s.pcnt = 0#5) (hb : s.byReg = { b0 := 0#8, b1 := 0#8, b2 := 0#8 }) (hl : s.params.legal)
    (hq : NoReset (readSteps s.params s.gain n) s) (hr : ReadyAfter 0 n s) :
    tick^[readSteps s.params s.gain n] s =
      { s with
        st := .idle
        pcnt := BitVec.ofNat 5 (framePulses s.gain)
        byReg := bytesAfter s.bitOrd (answer 0 n s) (framePulses s.gain)
        raw := if s.latch = 1#1 then
            orderBytes s.byteOrd (bytesAfter s.bitOrd (answer 0 n s) (framePulses s.gain)) else s.raw
        sck := 0#1, rspV := 1#1, rspE := 0#2, rspD := 0#8
        inputs := s.inputs.drop (readSteps s.params s.gain n)
        cycle := s.cycle + readSteps s.params s.gain n
        trace := s.trace ++ readTrace n s.gain (answer 0 n s) } := by
  have hK : readSteps s.params s.gain n = n + (1 + (framePulses s.gain * pulseSteps s.params + 1)) := by
    simp only [readSteps]; omega
  rw [hK] at hq ⊢
  refine tick_iterate_add (tick_polls_not_ready n s hst hw hv (hq.mono (by omega))
    (fun j hj => by simpa using hr.1 j hj)) ?_
  generalize hs1 : ({ s with inputs := s.inputs.drop n, cycle := s.cycle + n,
                             trace := s.trace ++ List.replicate n (.get 1#1) } : State) = s1
  have l1 : Later n s s1 := by subst hs1; exact ⟨rfl, rfl⟩
  refine tick_iterate_add (tick_poll_ready s1 (by subst hs1; exact hst) (by subst hs1; exact hw)
    (by subst hs1; exact hv) ((hq.mono (by omega)).later l1)
    (by rw [l1.inputAt]; simpa using hr.2)) ?_
  generalize hs2 : ({ s1 with st := .hi, inputs := s1.inputs.drop 1, cycle := s1.cycle + 1,
                              trace := s1.trace ++ [.get 0#1] } : State) = s2
  have l2 : Later (n + 1) s s2 := l1.trans (by subst hs2; exact ⟨rfl, rfl⟩)
  have hP : s2.params = s.params := by subst hs2 hs1; rfl
  have hG : s2.gain = s.gain := by subst hs2 hs1; rfl
  have e3 := tick_pulses s2 (by subst hs2; rfl) (by subst hs2 hs1; exact hw) (by subst hs2 hs1; exact hv)
    (by subst hs2 hs1; exact hsck) (by subst hs2 hs1; exact hp) (by subst hs2 hs1; exact hb) (by rw [hP]; exact hl)
    (framePulses s.gain) (by rw [hG]) (by rw [hP]; exact (hq.mono (by omega)).later l2)
  rw [hP] at e3
  have ha : (fun j => (s2.inputAt (j * pulseSteps s.params + (s.params.tHi + s.params.tLo))).dout) =
      answer 0 n s := by
    funext j; rw [l2.inputAt]; simp only [answer]; congr 2; omega
  rw [ha] at e3
  refine tick_iterate_add e3 ?_
  generalize hs3 : inFrame (framePulses s.gain) (answer 0 n s) s2 = s3
  have l3 : Later (n + 1 + framePulses s.gain * pulseSteps s.params) s s3 :=
    l2.trans (by subst hs3; simp only [inFrame, hP]; exact ⟨rfl, rfl⟩)
  have hst3 : s3.st = .fin := by subst hs3; simp [inFrame, hG]
  show tick s3 = _
  rw [tick_of_step (step_act (by rw [l3.inputAt]; exact hq _ (by omega))
    (by subst hs3 hs2 hs1; exact hw) (by simp [hst3]))]
  simp only [act, beginStep_st, hst3]
  obtain ⟨hi3, hc3⟩ := l3
  clear e3 l1 l2 ha hq hr
  subst hs3 hs2 hs1
  simp only [inFrame, doFin, latchSample, complete, beginStep, advance] at *
  simp only [hi3, hc3, readTrace, pulseTrace, List.tail_drop]
  split_ifs <;> simp [Nat.add_assoc, hw, Nat.add_comm 1]

end Sys2Proof.Machine
end

