-- ==== Sys2Proof/Tests/Slice0.lean ====
section
/-! SUPPORT. Tests, each about one step or less, with expected results written out in the spec (cited), and for every
obligation that has hypotheses a witness: a concrete state and operands that meet all of them together. -/

namespace Sys2Proof.Tests

open Sys2Proof.Machine

/-! ### Helpers -/

/-- Input levels with nothing offered and `d` on the data line. -/
def quiet (d : Bit) : Input := { rst := 0#1, cmdValid := 0#1, cmd := 0#12, dout := d }

/-- Input levels with the word `w` offered. -/
def offer (w : CmdWord) : Input := { rst := 0#1, cmdValid := 1#1, cmd := w, dout := 0#1 }

/-- The levels over a read with `T_HI` = `T_LO` = 1 and gain code `g`: `n` polls answered 1, one answered 0, the wire bits
`c` in the spec's order (`d[k]` = bit `23 − k`), 1 on each gain pulse, and the step of `FIN`. -/
def frame (n : Nat) (c : SampleWord) (g : Nat) : List Input :=
  List.replicate n (quiet 1#1) ++ quiet 0#1 ::
    (List.range (24 + g)).flatMap
      (fun k => [quiet 0#1, quiet 0#1, quiet (if k < 24 then c.extractLsb' (23 - k) 1 else 1#1)]) ++ [quiet 0#1]

/-- The reset state with a script. -/
def start (ins : List Input) : State := { State.reset with inputs := ins }

/-- The block Down with gain code `g` (after PWRDN), with a script. -/
def down (g : GainCode) (ins : List Input) : State :=
  { start ins with gain := g, pwr := 1#1, sck := 1#1 }

/-- One field of the answer, if the answer is a next state. -/
def after {α : Type} (o : Host.Outcome State Fault Refusal) (f : State → α) : Option α :=
  match o with
  | .next t => some (f t)
  | .fault _ => none
  | .refused _ => none

/-! ### The well-formedness check refuses an ignored bit that is 1 (R72) -/

theorem test_wellFormed_read : (Instr.read 1#8).wellFormed = false := by decide
theorem test_wellFormed_getgain : (Instr.getgain 0x80#8).wellFormed = false := by decide
theorem test_wellFormed_setfmt : (Instr.setfmt 1#6 1#1 0#1).wellFormed = false := by decide
theorem test_wellFormed_pwrdn : (Instr.pwrdn 2#8).wellFormed = false := by decide
theorem test_wellFormed_pwrup : (Instr.pwrup 0xFF#8).wellFormed = false := by decide
theorem test_wellFormed_accepts :
    [Instr.read 0, .setgain 255, .getgain 0, .setfmt 0 1 1, .pwrdn 0, .pwrup 0].all Instr.wellFormed = true := by decide

/-! ### Decoding: words written out from R60, R70 and R75, opcode bits first -/

theorem test_decode_read : decode 0b0001_00000000#12 = .ok (.read 0) := by decide
theorem test_decode_setgain : decode 0b0010_01000000#12 = .ok (.setgain 64) := by decide
theorem test_decode_getgain : decode 0b0011_00000000#12 = .ok (.getgain 0) := by decide
theorem test_decode_setfmt_byte_order : decode 0b0100_00000010#12 = .ok (.setfmt 0 1 0) := by decide
theorem test_decode_setfmt_bit_order : decode 0b0100_00000001#12 = .ok (.setfmt 0 0 1) := by decide
theorem test_decode_pwrdn : decode 0b0101_00000000#12 = .ok (.pwrdn 0) := by decide
theorem test_decode_pwrup : decode 0b0110_00000000#12 = .ok (.pwrup 0) := by decide
/-- R71: the ten reserved opcodes. -/
theorem test_decode_reserved :
    [0x000#12, 0x700#12, 0x800#12, 0x900#12, 0xA00#12, 0xB00#12, 0xC00#12, 0xD00#12, 0xE00#12, 0xFFF#12].map decode =
      [0x0#4, 0x7#4, 0x8#4, 0x9#4, 0xA#4, 0xB#4, 0xC#4, 0xD#4, 0xE#4, 0xF#4].map
        (fun o => .error (.reservedOpcode o)) := by decide

/-! ### The commands at the accepting step -/

/-- 95_test_vectors.md 2.8, Table A, cycle 2. -/
theorem test_read_accepted :
    after (step (start [offer 0x100#12])) (fun t => (t.st, t.latch, t.sck, t.pcnt)) =
      some (.poll, 1#1, 0#1, 0#5) := by decide

/-- 95_test_vectors.md 2.7: READ while Down, `ERR` 1: refused with 2, `ERR` stays 1. -/
theorem test_read_refused :
    after (step { down 1#2 [offer 0x100#12] with err := 1#2 }) (fun t => (t.st, t.rspV, t.rspE, t.rspD, t.err)) =
      some (.idle, 1#1, 2#2, 0#8, 1#2) := by decide

/-- 95_test_vectors.md 2.5: selector 64 is gain code 3; R130: the sample is dropped. -/
theorem test_setgain_accepted :
    after (step (start [offer 0x240#12])) (fun t => (t.st, t.gain, t.latch)) = some (.poll, 3#2, 0#1) := by decide

/-- 95_test_vectors.md 2.7: SETGAIN 128 while Down with `GAIN` 3: `GAIN` stays 3. -/
theorem test_setgain_refused :
    after (step (down 3#2 [offer 0x280#12])) (fun t => (t.st, t.gain, t.rspE, t.err, t.trace)) =
      some (.idle, 3#2, 2#2, 2#2, []) := by decide

/-- 95_test_vectors.md 2.2, 2.7: GETGAIN while Down, gain code 2: selector 32. -/
theorem test_getgain :
    after (step (down 2#2 [offer 0x300#12])) (fun t => (t.st, t.rspV, t.rspE, t.rspD)) =
      some (.idle, 1#1, 0#2, 32#8) := by decide

/-- 95_test_vectors.md 2.4: 0x4FE gives `BYTEORD` 1, `BITORD` 0. -/
theorem test_setfmt :
    after (step (start [offer 0x4FE#12])) (fun t => (t.byteOrd, t.bitOrd, t.rspV, t.rspE)) =
      some (1#1, 0#1, 1#1, 0#2) := by decide

/-- R140: only the sequencer moves. -/
theorem test_pwrdn :
    after (step (start [offer 0x500#12])) (fun t => (t.st, t.sck, t.pwr, t.rspV)) =
      some (.pdLo, 0#1, 0#1, 0#1) := by decide

/-- R144: accepted with the clock line high. -/
theorem test_pwrup :
    after (step (down 1#2 [offer 0x600#12])) (fun t => (t.st, t.sck, t.pwr, t.rspV)) =
      some (.puLo, 1#1, 1#1, 0#1) := by decide

/-- 95_test_vectors.md 2.7: 0xF12 with `ERR` 1. -/
theorem test_reserved :
    after (step { start [offer 0xF12#12] with err := 1#2 }) (fun t => (t.st, t.rspV, t.rspE, t.rspD, t.err)) =
      some (.idle, 1#1, 1#2, 0#8, 1#2) := by decide

/-- The command placed by `withFetchWord` runs at the first step after reset (R75: 0x280 is SETGAIN 128). -/
theorem test_withFetchWord :
    after (step (State.reset.withFetchWord 12 0x280)) (fun t => (t.st, t.gain)) = some (.poll, 1#2) := by decide

/-! ### The other steps -/

/-- R170, R172: reset in mid-read, with a command offered. -/
theorem test_reset_in_mid_read :
    after (step { start [{ offer 0x100#12 with rst := 1#1 }] with st := .lo, sck := 1#1, wcnt := 3, gain := 3#2 })
      (fun t => (t.st, t.sck, t.wcnt, t.gain, t.trace)) = some (.idle, 0#1, 0, 1#2, []) := by decide

/-- 95_test_vectors.md 2.8, Table B, cycle 5: `HI` with `T_HI` = 2 loads `WCNT` with 1. -/
theorem test_hi_loads_wait :
    after (step { start [quiet 0#1] with st := .hi, params := { Params.default with tHi := 2, wcntW := 1 } })
      (fun t => (t.st, t.sck, t.wcnt)) = some (.lo, 1#1, 1) := by decide

/-- R93: the stall that follows makes no event. -/
theorem test_stall :
    after (step { start [quiet 0#1] with st := .lo, sck := 1#1, wcnt := 1 }) (fun t => (t.st, t.sck, t.wcnt, t.trace)) =
      some (.lo, 1#1, 0, []) := by decide

/-- 95_test_vectors.md 2.8, Table A, cycles 3 and 4. -/
theorem test_poll :
    [1#1, 0#1].map (fun d => after (step { start [quiet d] with st := .poll }) (fun t => (t.st, t.trace))) =
      [some (.poll, [.get 1#1]), some (.hi, [.get 0#1])] := by decide

/-- 95_test_vectors.md 2.8, Table A, cycle 13: the third sample, 1, after `BY[0]` = 02. -/
theorem test_smp_data :
    after (step { start [quiet 1#1] with st := .smp, pcnt := 2#5, byReg := { b0 := 2#8, b1 := 0#8, b2 := 0#8 } })
      (fun t => (t.st, t.pcnt, t.byReg)) = some (.hi, 3#5, { b0 := 5#8, b1 := 0#8, b2 := 0#8 }) := by decide

/-- 95_test_vectors.md 2.8, Table A, cycle 79: the answer to the gain pulse is dropped and the frame ends. -/
theorem test_smp_gain :
    after (step { start [quiet 1#1] with st := .smp, pcnt := 24#5, byReg := { b0 := 0xA0#8, b1 := 0#8, b2 := 1#8 } })
      (fun t => (t.st, t.pcnt, t.byReg)) = some (.fin, 25#5, { b0 := 0xA0#8, b1 := 0#8, b2 := 1#8 }) := by decide

/-- 95_test_vectors.md 2.4: `BY` = 12 34 56 with `BYTEORD` 1 gives `RAW` = 56 34 12. -/
theorem test_fin_reversed :
    after (step { start [quiet 0#1] with st := .fin, latch := 1#1, byteOrd := 1#1,
                                         byReg := { b0 := 0x12#8, b1 := 0x34#8, b2 := 0x56#8 } })
      (fun t => (t.st, t.raw, t.rspV)) = some (.idle, { b0 := 0x56#8, b1 := 0x34#8, b2 := 0x12#8 }, 1#1) := by decide

/-- 95_test_vectors.md 2.5: a flush read leaves `RAW`. -/
theorem test_fin_flush :
    after (step { start [quiet 0#1] with st := .fin, latch := 0#1, byReg := { b0 := 0#8, b1 := 1#8, b2 := 0x23#8 } })
      (fun t => t.raw) = some { b0 := 0#8, b1 := 0#8, b2 := 0#8 } := by decide

/-- R143 and R146 with gain code 3: Down at the end of the hold; Up and a flush read. -/
theorem test_power_ends :
    after (step { start [quiet 0#1] with st := .pdEnd, sck := 1#1 }) (fun t => (t.st, t.pwr, t.rspV)) =
        some (.idle, 1#1, 1#1) ∧
      after (step { start [quiet 0#1] with st := .puEnd, pwr := 1#1, gain := 3#2, latch := 1#1 })
        (fun t => (t.st, t.pwr, t.rspV, t.latch)) = some (.poll, 0#1, 0#1, 0#1) := by decide

/-! ### The decoder and the mappings -/

/-- 95_test_vectors.md 2.1 (the document's E1 to E4, and mixed bits). -/
theorem test_decode24 :
    [0x000000#24, 0x000001#24, 0x123456#24, 0x7FFFFF#24, 0x800000#24, 0xABCDEF#24, 0xFFFFFF#24].map decode24 =
      [0, 1, 1193046, 8388607, -8388608, -5517841, -1] := by decide

/-- 95_test_vectors.md, Part 1: `RAW` = 80 00 00 shows 0xFF800000 on `value`. -/
theorem test_value :
    (valuePort { State.reset with raw := { b0 := 0x80#8, b1 := 0#8, b2 := 0#8 } }).toNat = 0xFF800000 := by decide

/-- 95_test_vectors.md 2.2. -/
theorem test_gain_codes :
    [128#8, 64#8, 32#8, 0#8, 1#8, 2#8, 3#8, 16#8, 31#8, 33#8, 63#8, 65#8, 127#8, 129#8, 255#8].map gainCode =
      [1#2, 3#2, 2#2, 1#2, 1#2, 1#2, 1#2, 1#2, 1#2, 1#2, 1#2, 1#2, 1#2, 1#2, 1#2] := by decide

/-- 95_test_vectors.md 2.4: the first sample lands at bit 23, 16, 7, 0 and the last at 0, 7, 16, 23. -/
theorem test_places :
    [(0#1, 0#1), (0#1, 1#1), (1#1, 0#1), (1#1, 1#1)].map (fun f => (samplePos f.1 f.2 0, samplePos f.1 f.2 23)) =
      [(23, 0), (16, 7), (7, 16), (0, 23)] := by decide

/-! ### Witnesses: encoding and the step -/

theorem witness_EncodeOfDecodeIsTheWord : decode 0x4FE#12 = .ok (.setfmt 63 1 0) := by decide

/-- One pair of words for each command the statement names. -/
theorem witness_IgnoredArgumentBitsChangeNothing :
    (opField 0x100#12 = opField 0x1FF#12 ∧ opField 0x100#12 = 0x1#4) ∧
    (opField 0x300#12 = opField 0x3FF#12 ∧ opField 0x300#12 = 0x3#4) ∧
    (opField 0x500#12 = opField 0x5FF#12 ∧ opField 0x500#12 = 0x5#4) ∧
    (opField 0x600#12 = opField 0x6FF#12 ∧ opField 0x600#12 = 0x6#4) ∧
    (opField 0x402#12 = opField 0x4FE#12 ∧ opField 0x402#12 = 0x4#4 ∧
      BitVec.extractLsb' 0 2 0x402#12 = BitVec.extractLsb' 0 2 0x4FE#12) := by decide

theorem witness_StepRunsTheDecodedCommand :
    let s := start [offer 0x2FF#12]
    ((s.inputAt 0).rst = 0#1 ∧ s.st = .idle ∧ s.wcnt = 0 ∧ Offers (.setgain 255) 0 s) ∧
    decodeTableWord 12 0x100 = some (.read 0) := by
  unfold Offers; decide

/-- The first and the last reserved opcode of each of the two ranges. -/
theorem witness_ReservedOpcodeIsRefused :
    ∀ w ∈ [0x000#12, 0x0FF#12, 0x700#12, 0xFFF#12],
      let s := start [offer w]
      (s.inputAt 0).rst = 0#1 ∧ s.st = .idle ∧ s.wcnt = 0 ∧ (s.inputAt 0).cmdValid = 1#1 ∧
        ((s.inputAt 0).cmd.extractLsb' 8 4 = 0x0#4 ∨ 0x7#4 ≤ (s.inputAt 0).cmd.extractLsb' 8 4) := by decide

theorem witness_ResetStepSetsEveryRegister :
    let s := { start [{ offer 0x100#12 with rst := 1#1 }] with st := .smp, gain := 3#2, err := 2#2 }
    (s.inputAt 0).rst = 1#1 := by decide

theorem witness_StallOnlyCountsDown :
    let s := { start [offer 0x100#12] with st := .lo, wcnt := 1 }
    (s.inputAt 0).rst = 0#1 ∧ s.wcnt ≠ 0 := by decide

theorem witness_IdleStepWithoutCommand :
    let s := { start [quiet 1#1] with rspV := 1#1 }
    (s.inputAt 0).rst = 0#1 ∧ s.wcnt = 0 ∧ s.st = .idle ∧ (s.inputAt 0).cmdValid = 0#1 := by decide

theorem witness_PollStep :
    ∀ d : Bit, let s := { start [quiet d] with st := .poll };
      (s.inputAt 0).rst = 0#1 ∧ s.wcnt = 0 ∧ s.st = .poll := by decide

theorem witness_ClockEdgeSteps :
    ∀ q ∈ [Seq.hi, .lo], let s := { start [quiet 0#1] with st := q };
      (s.inputAt 0).rst = 0#1 ∧ s.wcnt = 0 ∧ s.st = q := by decide

theorem witness_OnePulseOnTheClockLine :
    let s := { start (List.replicate 5 (quiet 0#1)) with
                 st := .hi, params := { Params.default with tHi := 3, tLo := 2, wcntW := 2 } }
    s.params.legal ∧ s.st = .hi ∧ s.wcnt = 0 ∧ NoReset (s.params.tHi + s.params.tLo) s ∧
      1 ≤ 3 ∧ 3 ≤ s.params.tHi ∧ s.params.tHi < 4 ∧ 5 ≤ s.params.tHi + s.params.tLo := by
  unfold NoReset; decide

/-- The last data bit, the first gain pulse, and the last pulse of the longest frame. -/
theorem witness_SampleStep :
    ∀ p ∈ [23#5, 24#5, 26#5],
      let s := { start [quiet 1#1] with st := .smp, pcnt := p, gain := 3#2 }
      (s.inputAt 0).rst = 0#1 ∧ s.wcnt = 0 ∧ s.st = .smp ∧ (s.pcnt.toNat < 24 ↔ p = 23#5) := by decide

theorem witness_FinishStep :
    ∀ l y : Bit, let s := { start [quiet 0#1] with st := .fin, latch := l, byteOrd := y };
      (s.inputAt 0).rst = 0#1 ∧ s.wcnt = 0 ∧ s.st = .fin := by decide

theorem witness_PowerDownSteps :
    ∀ q ∈ [Seq.pdLo, .pdHi, .pdEnd], let s := { start [quiet 0#1] with st := q };
      (s.inputAt 0).rst = 0#1 ∧ s.wcnt = 0 ∧ s.st = q := by decide

theorem witness_PowerUpSteps :
    (∀ q ∈ [Seq.puLo, .puEnd], let s := { start [quiet 0#1] with st := q };
      (s.inputAt 0).rst = 0#1 ∧ s.wcnt = 0 ∧ s.st = q ∧ s.gain = 1#2) ∧
    (let s := { start [quiet 0#1] with st := .puEnd, gain := 2#2 };
      (s.inputAt 0).rst = 0#1 ∧ s.wcnt = 0 ∧ s.st = .puEnd ∧ s.gain ≠ 1#2) := by decide

/-! ### Witnesses: the commands at the accepting step -/

theorem witness_ReadStartsAKeptRead : State.reset.sck = 0#1 := by decide

theorem witness_SetgainWritesGainAndStartsAFlushRead : State.reset.sck = 0#1 := by decide

theorem witness_ReadAndSetgainRefusedWithClockHigh : (down 3#2 []).sck = 1#1 := by decide

/-- The three gain codes of a reachable state. -/
theorem witness_GetgainReportsTheSelector :
    State.reset.gain = 1#2 ∧ (down 2#2 []).gain = 2#2 ∧ (down 3#2 []).gain = 3#2 := by decide

/-! ### Witnesses: rules of the whole machine -/

theorem witness_ConfigurationWrittenOnlyByItsCommands :
    (∃ t, step (start [offer 0x220#12]) = .next t ∧ ((start [offer 0x220#12]).inputAt 0).rst = 0#1 ∧
      t.gain ≠ (start [offer 0x220#12]).gain) ∧
    (∃ t, step (start [offer 0x401#12]) = .next t ∧ ((start [offer 0x401#12]).inputAt 0).rst = 0#1 ∧
      t.bitOrd ≠ (start [offer 0x401#12]).bitOrd) ∧
    (∃ t, step (start [offer 0x402#12]) = .next t ∧ ((start [offer 0x402#12]).inputAt 0).rst = 0#1 ∧
      t.byteOrd ≠ (start [offer 0x402#12]).byteOrd) :=
  ⟨⟨_, rfl, by decide⟩, ⟨_, rfl, by decide⟩, ⟨_, rfl, by decide⟩⟩

theorem witness_SampleAndPowerRegistersWrittenOnlyByTheirSteps :
    (let s := { start [quiet 0#1] with st := .fin, latch := 1#1, byReg := { b0 := 1#8, b1 := 0#8, b2 := 0#8 } };
      ∃ t, step s = .next t ∧ (s.inputAt 0).rst = 0#1 ∧ t.raw ≠ s.raw) ∧
    (let s := { start [quiet 0#1] with st := .pdEnd };
      ∃ t, step s = .next t ∧ (s.inputAt 0).rst = 0#1 ∧ t.pwr ≠ s.pwr) ∧
    (let s := { down 1#2 [quiet 0#1] with st := .puEnd };
      ∃ t, step s = .next t ∧ (s.inputAt 0).rst = 0#1 ∧ t.pwr ≠ s.pwr) ∧
    (let s := { start [quiet 1#1] with st := .smp };
      ∃ t, step s = .next t ∧ (s.inputAt 0).rst = 0#1 ∧ t.byReg ≠ s.byReg) ∧
    (let s := { start [offer 0x100#12] with byReg := { b0 := 1#8, b1 := 0#8, b2 := 0#8 } };
      ∃ t, step s = .next t ∧ (s.inputAt 0).rst = 0#1 ∧ t.byReg ≠ s.byReg) :=
  ⟨⟨_, rfl, by decide⟩, ⟨_, rfl, by decide⟩, ⟨_, rfl, by decide⟩, ⟨_, rfl, by decide⟩, ⟨_, rfl, by decide⟩⟩

/-- One step of each of the three kinds: no event, a `LineSet`, a `LineGet`. -/
theorem witness_AtMostOneLineEventPerStep :
    ∀ q ∈ [Seq.idle, .hi, .smp], let s := { start [quiet 1#1] with st := q };
      after (step s) (fun t => t.trace.length) = some (if q = .idle then 0 else 1) ∧ (s.inputAt 0).rst = 0#1 := by decide

theorem witness_FirstRefusalIsKept :
    (∃ t, step (start [offer 0x000#12]) = .next t ∧ ((start [offer 0x000#12]).inputAt 0).rst = 0#1 ∧
      t.err ≠ (start [offer 0x000#12]).err) ∧
    (∃ t, step (down 1#2 [offer 0x100#12]) = .next t ∧ ((down 1#2 [offer 0x100#12]).inputAt 0).rst = 0#1 ∧
      t.err ≠ (down 1#2 [offer 0x100#12]).err) :=
  ⟨⟨_, rfl, by decide⟩, ⟨_, rfl, by decide⟩⟩

/-- A step that completes, and one that does not. -/
theorem witness_ResponseMarksCompletion :
    (∃ t, step (start [offer 0x400#12]) = .next t ∧ ((start [offer 0x400#12]).inputAt 0).rst = 0#1 ∧ t.rspV = 1#1) ∧
    (∃ t, step (start [offer 0x100#12]) = .next t ∧ ((start [offer 0x100#12]).inputAt 0).rst = 0#1 ∧ t.rspV = 0#1) :=
  ⟨⟨_, rfl, by decide⟩, ⟨_, rfl, by decide⟩⟩

/-- A command in flight, a wait, and a step with nothing offered. -/
theorem witness_CommandPortIgnoredUnlessAccepting :
    (let s := { start [quiet 1#1] with st := .poll };
      s.inputs = quiet 1#1 :: [] ∧ ({ offer 0x500#12 with dout := 1#1 } : Input).rst = (quiet 1#1).rst ∧
        ({ offer 0x500#12 with dout := 1#1 } : Input).dout = (quiet 1#1).dout ∧ s.st ≠ .idle) ∧
    (let s := { start [quiet 0#1] with wcnt := 1 };
      s.inputs = quiet 0#1 :: [] ∧ (offer 0x500#12).rst = (quiet 0#1).rst ∧ (offer 0x500#12).dout = (quiet 0#1).dout ∧
        s.wcnt ≠ 0) ∧
    (let s := start [quiet 0#1];
      let i' := { quiet 0#1 with cmd := 0xFFF#12 };
      s.inputs = quiet 0#1 :: [] ∧ i'.rst = (quiet 0#1).rst ∧ i'.dout = (quiet 0#1).dout ∧
        (quiet 0#1).cmdValid = 0#1 ∧ i'.cmdValid = 0#1) := by decide

theorem witness_DataLineIgnoredOutsidePollAndSample :
    (let s := { start [quiet 0#1] with st := .hi };
      s.inputs = quiet 0#1 :: [] ∧ s.st ≠ .poll ∧ s.st ≠ .smp) ∧
    (let s := { start [quiet 0#1] with st := .smp, wcnt := 1 };
      s.inputs = quiet 0#1 :: [] ∧ s.wcnt ≠ 0) := by decide

theorem witness_StepKeepsTheInstance : ∃ t, step (start [quiet 1#1]) = .next t := ⟨_, rfl⟩

/-! ### Witnesses: invariants -/

theorem witness_ResetMeetsTheInvariant : Initial (start [offer 0x100#12]) := ⟨by decide, rfl⟩

/-- The last sample of the longest frame meets the invariant, and a step follows. -/
theorem witness_StepKeepsTheInvariant :
    let s := { start [quiet 1#1] with st := .smp, pcnt := 26#5, gain := 3#2, latch := 1#1 }
    Inv s ∧ ∃ t, step s = .next t := by
  refine ⟨⟨⟨?_, ?_, ?_, ?_, ?_, ?_, ?_, ?_, ?_, ?_, ?_, ?_, ?_, ?_⟩, ?_, ?_, ?_⟩, _, rfl⟩ <;> decide

/-- A start, and a state one step from it. -/
theorem witness_ReachableStatesMeetTheLaws :
    Reachable (start [offer 0x500#12]) ∧ ∃ t, step (start [offer 0x500#12]) = .next t ∧ t.st = .pdLo ∧ Reachable t :=
  have h : Reachable (start [offer 0x500#12]) := .start ⟨by decide, rfl⟩
  ⟨h, _, rfl, rfl, .next h rfl⟩

/-! ### Witnesses: the decoder and the places -/

/-- The ends of the range of a sample, and the two halves on which the decoder rises. -/
theorem witness_DecoderIsTwosComplement :
    (-8388608 ≤ (8388607 : Int) ∧ (8388607 : Int) ≤ 8388607) ∧ decode24 0x800000#24 = decode24 0x800000#24 ∧
    (BitVec.toNat 0x7FFFFE#24 < BitVec.toNat 0x7FFFFF#24 ∧ BitVec.toNat 0x7FFFFF#24 ≤ 0x7FFFFF) ∧
    (BitVec.toNat 0x800000#24 < BitVec.toNat 0x800001#24 ∧ 0x800000 ≤ BitVec.toNat 0x800000#24) := by decide

theorem witness_WordAndValuePorts :
    24 ≤ State.reset.params.valueW ∧
    24 ≤ { State.reset with params := { Params.default with valueW := 24 } }.params.valueW := by decide

/-- The first and the last sample of a byte; 95_test_vectors.md 2.4: 0x12 on the wire is 12 or 48. -/
theorem witness_EightSamplesFillAByte :
    0 < 8 ∧ 7 < 8 ∧
    [0#1, 1#1].map (fun order =>
      (List.range 8).foldl (fun x n => shiftByte order (BitVec.extractLsb' (7 - n) 1 0x12#8) x) 0xFF#8) =
      [0x12#8, 0x48#8] := by decide

/-- 95_test_vectors.md 2.4: wire bits 0x123456 are the bytes 12 34 56 in bit order 0 and 48 2C 6A in bit order 1. -/
theorem witness_SamplePlacesInTheWord :
    HoldsSamples 0#1 (fun k => BitVec.extractLsb' (23 - k) 1 0x123456#24) { b0 := 0x12#8, b1 := 0x34#8, b2 := 0x56#8 } ∧
    HoldsSamples 1#1 (fun k => BitVec.extractLsb' (23 - k) 1 0x123456#24) { b0 := 0x48#8, b1 := 0x2C#8, b2 := 0x6A#8 } := by
  unfold HoldsSamples; decide

/-! ### Witnesses: whole commands -/

/-- A read sequence with three polls in vain, gain code 3. -/
theorem witness_ReadSequenceOnTheLines :
    let s := { start (frame 3 0xABCDEF#24 3) with st := .poll, gain := 3#2 }
    s.params.legal ∧ s.st = .poll ∧ s.wcnt = 0 ∧ s.rspV = 0#1 ∧ s.pcnt = 0#5 ∧
      s.byReg = { b0 := 0#8, b1 := 0#8, b2 := 0#8 } ∧ s.sck = 0#1 ∧
      NoReset (readSteps s.params s.gain 3) s ∧ ReadyAfter 0 3 s := by
  unfold NoReset ReadyAfter; decide

/-- A READ after reset, ready at its first poll, and one after three polls in vain. -/
theorem witness_ReadKeepsTheSample :
    ∀ n ∈ [0, 3],
      let s := start (offer 0x1FF#12 :: frame n 0x123456#24 1)
      s.params.legal ∧ s.st = .idle ∧ s.wcnt = 0 ∧ s.sck = 0#1 ∧ NoReset (1 + readSteps s.params s.gain n) s ∧
        Offers (.read 0xFF) 0 s ∧ ReadyAfter 1 n s := by
  unfold NoReset ReadyAfter Offers; decide

theorem witness_SetgainFlushesWithTheNewGain :
    let s := start (offer 0x240#12 :: frame 1 0x000123#24 3)
    s.params.legal ∧ s.st = .idle ∧ s.wcnt = 0 ∧ s.sck = 0#1 ∧
      NoReset (1 + readSteps s.params (gainCode 64) 1) s ∧ Offers (.setgain 64) 0 s ∧ ReadyAfter 1 1 s := by
  unfold NoReset ReadyAfter Offers; decide

/-- One input for each of the two commands. -/
theorem witness_ReadAndSetgainDuration :
    (let s := start (offer 0x100#12 :: frame 0 0x800000#24 1);
      s.params.legal ∧ s.st = .idle ∧ s.wcnt = 0 ∧ s.sck = 0#1 ∧ (1#2 : GainCode) = s.gain ∧
        NoReset (1 + (0 + 1) + (24 + BitVec.toNat 1#2) * (s.params.tHi + s.params.tLo + 1) + 1) s ∧
        Offers (.read 0) 0 s ∧ ReadyAfter 1 0 s) ∧
    (let s := start (offer 0x220#12 :: frame 0 0x800000#24 2);
      s.params.legal ∧ s.st = .idle ∧ s.wcnt = 0 ∧ s.sck = 0#1 ∧ (2#2 : GainCode) = gainCode 32 ∧
        NoReset (1 + (0 + 1) + (24 + BitVec.toNat 2#2) * (s.params.tHi + s.params.tLo + 1) + 1) s ∧
        Offers (.setgain 32) 0 s ∧ ReadyAfter 1 0 s) := by
  unfold NoReset ReadyAfter Offers; decide

/-- A selector of the three, and one that is none of them. -/
theorem witness_GainRoundTrip :
    (let s := start (offer 0x220#12 :: frame 0 0x000000#24 2);
      s.params.legal ∧ s.st = .idle ∧ s.wcnt = 0 ∧ s.sck = 0#1 ∧
        NoReset (1 + readSteps s.params (gainCode 32) 0) s ∧ Offers (.setgain 32) 0 s ∧ ReadyAfter 1 0 s) ∧
    (let s := start (offer 0x203#12 :: frame 0 0x000000#24 1);
      s.params.legal ∧ s.st = .idle ∧ s.wcnt = 0 ∧ s.sck = 0#1 ∧
        NoReset (1 + readSteps s.params (gainCode 3) 0) s ∧ Offers (.setgain 3) 0 s ∧ ReadyAfter 1 0 s) := by
  unfold NoReset ReadyAfter Offers; decide

/-- An instance with a hold of five clock periods. -/
def hold5 : Params := { Params.default with tHold := 5, wcntW := 3 }

/-- From the Up and from the Down state; step 3 is the first of the hold. -/
theorem witness_PowerDownHoldsTheClockHigh :
    ∀ p : Bit,
      let s := { start (offer 0x500#12 :: List.replicate 7 (quiet 0#1)) with params := hold5, pwr := p, sck := p }
      s.params.legal ∧ s.st = .idle ∧ s.wcnt = 0 ∧ NoReset (s.params.tHold + 3) s ∧ Offers (.pwrdn 0) 0 s ∧
        3 < s.params.tHold + 3 := by
  unfold NoReset Offers; decide

/-- Both cases of the gain code; step 2 is the first of the hold. -/
theorem witness_PowerUpHoldsTheClockLowAndFlushes :
    (let s := { down 1#2 (offer 0x600#12 :: List.replicate 6 (quiet 0#1)) with params := hold5 };
      s.params.legal ∧ s.st = .idle ∧ s.wcnt = 0 ∧ Offers (.pwrup 0) 0 s ∧ s.gain = 1#2 ∧ 2 < s.params.tHold + 2 ∧
        NoReset (s.params.tHold + 2) s) ∧
    (let s := { down 3#2 (offer 0x600#12 :: List.replicate 6 (quiet 0#1) ++ frame 1 0x555555#24 3) with
                  params := hold5 };
      s.params.legal ∧ s.st = .idle ∧ s.wcnt = 0 ∧ Offers (.pwrup 0) 0 s ∧ s.gain ≠ 1#2 ∧
        NoReset (s.params.tHold + 2 + readSteps s.params s.gain 1) s ∧ ReadyAfter (s.params.tHold + 2) 1 s) := by
  unfold NoReset ReadyAfter Offers; decide

/-- Nine polls in vain of a READ, of a SETGAIN and of a flushing PWRUP. -/
theorem witness_ReadWaitsWithoutLimit :
    (let s := start (offer 0x100#12 :: List.replicate 9 (quiet 1#1));
      s.st = .idle ∧ s.wcnt = 0 ∧ s.sck = 0#1 ∧ NoReset (1 + 9) s ∧ Offers (.read 0) 0 s ∧
        (∀ j < 9, (s.inputAt (1 + j)).dout = 1#1)) ∧
    (let s := start (offer 0x240#12 :: List.replicate 9 (quiet 1#1));
      s.st = .idle ∧ s.wcnt = 0 ∧ s.sck = 0#1 ∧ NoReset (1 + 9) s ∧ Offers (.setgain 64) 0 s ∧
        (∀ j < 9, (s.inputAt (1 + j)).dout = 1#1)) ∧
    (let s := down 2#2 (offer 0x600#12 :: List.replicate 11 (quiet 1#1));
      s.st = .idle ∧ s.wcnt = 0 ∧ s.params.legal ∧ s.gain ≠ 1#2 ∧ NoReset (s.params.tHold + 2 + 9) s ∧
        Offers (.pwrup 0) 0 s ∧ (∀ j < 9, (s.inputAt (s.params.tHold + 2 + j)).dout = 1#1)) := by
  unfold NoReset Offers; decide

/-- The chip is ready at the last step the bound allows; the READ is offered back to back, in the interval of the response
of the command before. -/
theorem witness_ReadCompletesWhenTheChipIsReady_read :
    let s := { start (offer 0x100#12 :: frame 2 0x7FFFFF#24 1) with rspV := 1#1 }
    s.params.legal ∧ s.st = .idle ∧ s.wcnt = 0 ∧
      (∃ u, Instr.read 0 = .read u ∧ (1#2 : GainCode) = s.gain ∧ 1 = 1 ∧ s.sck = 0#1) ∧
      NoReset (1 + readSteps s.params 1#2 2) s ∧ Offers (.read 0) 0 s ∧ EnvReady 1 2 s := by
  unfold NoReset Offers EnvReady
  refine ⟨by decide, by decide, by decide, ⟨0, by decide⟩, by decide, by decide, 2, by decide, by decide⟩

theorem witness_ReadCompletesWhenTheChipIsReady_setgain :
    let s := start (offer 0x240#12 :: frame 2 0x7FFFFF#24 3)
    s.params.legal ∧ s.st = .idle ∧ s.wcnt = 0 ∧
      (∃ sel, Instr.setgain 64 = .setgain sel ∧ (3#2 : GainCode) = gainCode sel ∧ 1 = 1 ∧ s.sck = 0#1) ∧
      NoReset (1 + readSteps s.params 3#2 2) s ∧ Offers (.setgain 64) 0 s ∧ EnvReady 1 2 s := by
  unfold NoReset Offers EnvReady
  refine ⟨by decide, by decide, by decide, ⟨64, by decide⟩, by decide, by decide, 2, by decide, by decide⟩

theorem witness_ReadCompletesWhenTheChipIsReady_pwrup :
    let s := down 3#2 (offer 0x600#12 :: List.replicate 2 (quiet 0#1) ++ frame 2 0x7FFFFF#24 3)
    s.params.legal ∧ s.st = .idle ∧ s.wcnt = 0 ∧
      (∃ u, Instr.pwrup 0 = .pwrup u ∧ (3#2 : GainCode) = s.gain ∧ s.gain ≠ 1#2 ∧ 3 = s.params.tHold + 2) ∧
      NoReset (3 + readSteps s.params 3#2 2) s ∧ Offers (.pwrup 0) 0 s ∧ EnvReady 3 2 s := by
  unfold NoReset Offers EnvReady
  refine ⟨by decide, by decide, by decide, ⟨0, by decide⟩, by decide, by decide, 2, by decide, by decide⟩

theorem witness_ReadDeliversTheChipSample :
    let s := start (offer 0x100#12 :: frame 1 0xABCDEF#24 1)
    s.params.legal ∧ s.st = .idle ∧ s.wcnt = 0 ∧ s.sck = 0#1 ∧ s.bitOrd = 0#1 ∧ s.byteOrd = 0#1 ∧
      NoReset (1 + readSteps s.params s.gain 1) s ∧ Offers (.read 0) 0 s ∧ ReadyAfter 1 1 s ∧
      EnvShift 0xABCDEF#24 (answer 1 1 s) := by
  unfold NoReset ReadyAfter Offers EnvShift; decide

/-- A chip all of whose frames have 27 pulses, and the flush read of SETGAIN 64, which is such a frame. -/
theorem witness_SetgainSelectsTheNextGain :
    let s := start (offer 0x240#12 :: frame 0 0x000000#24 3)
    s.params.legal ∧ s.st = .idle ∧ s.wcnt = 0 ∧ s.sck = 0#1 ∧
      NoReset (1 + readSteps s.params (gainCode 64) 0) s ∧ Offers (.setgain 64) 0 s ∧ ReadyAfter 1 0 s ∧
      EnvGain (fun _ => 27) (fun _ => 3#2) ∧
      after (run (1 + readSteps s.params (gainCode 64) 0) s) (fun t => risingEdges (t.trace.drop s.trace.length)) =
        some 27 := by
  refine ⟨by decide, rfl, rfl, rfl, by unfold NoReset; decide, by unfold Offers; decide,
    by unfold ReadyAfter; decide, fun _ _ _ => rfl, by decide +kernel⟩

/-- The block Down with gain code 3, and a chip all of whose frames have 27 pulses. -/
theorem witness_PowerUpReselectsTheGain :
    let s := down 3#2 (offer 0x600#12 :: List.replicate 2 (quiet 0#1) ++ frame 1 0x555555#24 3)
    Inv s ∧ s.st = .idle ∧ s.gain ≠ 1#2 ∧ Offers (.pwrup 0) 0 s ∧
      NoReset (s.params.tHold + 2 + readSteps s.params s.gain 1) s ∧ ReadyAfter (s.params.tHold + 2) 1 s ∧
      EnvGain (fun _ => 27) (fun _ => 3#2) ∧
      after (run (s.params.tHold + 2 + readSteps s.params s.gain 1) s)
        (fun t => risingEdges (t.trace.drop s.trace.length)) = some 27 := by
  refine ⟨⟨⟨?_, ?_, ?_, ?_, ?_, ?_, ?_, ?_, ?_, ?_, ?_, ?_, ?_, ?_⟩, ?_, ?_, ?_⟩, rfl, by decide, by unfold Offers; decide,
    by unfold NoReset; decide, by unfold ReadyAfter; decide, fun _ _ _ => rfl, by decide +kernel⟩ <;> decide

/-- With gain code 1 and PWRUP offered at once, and with gain code 2, one idle step in between, and a flush read. -/
theorem witness_PseudoResetEndsUpReadyToRead :
    (let s := start (offer 0x500#12 :: List.replicate 3 (quiet 0#1) ++ offer 0x600#12 :: List.replicate 2 (quiet 0#1));
      s.params.legal ∧ s.st = .idle ∧ s.wcnt = 0 ∧ s.gain = 1#2 ∧
        NoReset (s.params.tHold + 3 + 0 + (s.params.tHold + 2)) s ∧ Offers (.pwrdn 0) 0 s ∧
        NoOffer (s.params.tHold + 3) 0 s ∧ Offers (.pwrup 0) (s.params.tHold + 3 + 0) s) ∧
    (let s := { start (offer 0x500#12 :: List.replicate 4 (quiet 0#1) ++ offer 0x600#12 :: List.replicate 2 (quiet 0#1) ++
                       frame 0 0x0F0F0F#24 2) with gain := 2#2 };
      s.params.legal ∧ s.st = .idle ∧ s.wcnt = 0 ∧ s.gain ≠ 1#2 ∧
        ReadyAfter (s.params.tHold + 3 + 1 + (s.params.tHold + 2)) 0 s ∧
        NoReset (s.params.tHold + 3 + 1 + (s.params.tHold + 2 + readSteps s.params s.gain 0)) s ∧
        Offers (.pwrdn 0) 0 s ∧ NoOffer (s.params.tHold + 3) 1 s ∧ Offers (.pwrup 0) (s.params.tHold + 3 + 1) s) := by
  unfold NoReset ReadyAfter Offers NoOffer; decide

end Sys2Proof.Tests
end

section
/-! # O33: the instance is fixed, the trace only grows (R7, R49)

Only `advance` takes a record of inputs and counts the step.  Whatever else a step does, the dispatch of a command or the
action of a sequencer state, keeps the instance and its place in the script. -/

namespace Sys2Proof.Machine

/-- `t` belongs to the instance of `s` and stands at the same place in its script; its trace extends that of `s`. -/
structure SameInstance (s t : State) : Prop where
  params : t.params = s.params
  inputs : t.inputs = s.inputs
  cycle : t.cycle = s.cycle
  trace : s.trace <+: t.trace

/-- What makes no line event (a dispatch, a stall, a reset) keeps the trace. -/
theorem SameInstance.of_no_event {s t : State} (hp : t.params = s.params) (hi : t.inputs = s.inputs)
    (hc : t.cycle = s.cycle) (ht : t.trace = s.trace) : SameInstance s t :=
  ⟨hp, hi, hc, ht ▸ List.prefix_rfl⟩

/-- R44, R49: a line event is recorded at the end of the trace. -/
theorem SameInstance.of_event {s t : State} {e : LineEvent} (hp : t.params = s.params) (hi : t.inputs = s.inputs)
    (hc : t.cycle = s.cycle) (ht : t.trace = s.trace ++ [e]) : SameInstance s t :=
  ⟨hp, hi, hc, ht ▸ List.prefix_append _ _⟩

/-- R94, R49: the accepting step makes no line event, whatever the command, refused or not. -/
theorem dispatchWord_keeps_instance_and_trace {w : CmdWord} {s t : State} (h : dispatchWord w s = .next t) :
    t.params = s.params ∧ t.inputs = s.inputs ∧ t.cycle = s.cycle ∧ t.trace = s.trace := by
  rcases dispatchWord_cases w s with
    ⟨-, -, e⟩ | ⟨-, -, e⟩ | ⟨-, -, e⟩ | ⟨-, e⟩ | ⟨-, e⟩ | ⟨-, e⟩ | ⟨-, e⟩ | ⟨-, e⟩ <;>
  · cases e.symm.trans h
    simp

/-- R95 to R100, R141 to R146: the actions of `POLL`, `SMP` and the clock edges make one line event, the others none. -/
theorem act_sameInstance (i : Input) (s : State) : SameInstance s (act i s) := by
  cases hst : s.st <;> simp only [act, hst]
  case poll | smp | hi | lo | pdLo | pdHi | puLo => exact .of_event rfl rfl rfl rfl
  case idle | fin | pdEnd => exact .of_no_event rfl rfl rfl rfl
  case puEnd => unfold doPuEnd; split <;> exact .of_no_event rfl rfl rfl rfl

/-- R90: a step takes its inputs, and what it does then keeps the instance. -/
theorem step_sameInstance_advance {s t : State} (h : step s = .next t) : SameInstance (advance s) t := by
  rcases step_cases s with
    ⟨-, hreset⟩ | ⟨-, -, hstall⟩ | ⟨-, -, -, -, hnothing⟩ | ⟨-, -, -, -, haccept⟩ | ⟨-, -, -, hact⟩
  · cases hreset.symm.trans h
    exact .of_no_event rfl rfl rfl rfl
  · cases hstall.symm.trans h
    exact .of_no_event rfl rfl rfl rfl
  · cases hnothing.symm.trans h
    exact .of_no_event rfl rfl rfl rfl
  · obtain ⟨hp, hi, hc, ht⟩ := dispatchWord_keeps_instance_and_trace (haccept.symm.trans h)
    exact .of_no_event hp hi hc ht
  · cases hact.symm.trans h
    obtain ⟨hp, hi, hc, ht⟩ := act_sameInstance (s.inputAt 0) (beginStep s)
    exact ⟨hp, hi, hc, ht⟩

/-- Settles O33: a step is `advance` followed by what keeps the instance. -/
theorem stepKeepsTheInstance : Obligations.StepKeepsTheInstance := by
  intro s t h
  obtain ⟨hp, hi, hc, ht⟩ := step_sameInstance_advance h
  exact ⟨hp, hi, hc, ht⟩

end Sys2Proof.Machine
end

section
/-! # One step without reset, inverted (R90, R94, R156)

`dispatchWord_cases` and `step_cases` as inductive relations: a proof about the next state is a case split by the name of
what the step does. -/

namespace Sys2Proof.Machine

/-- `Dispatched w s t`: dispatching the word `w` in `s` answers `t`. -/
inductive Dispatched (w : CmdWord) (s : State) : State → Prop
  /-- R150: READ or SETGAIN with the clock line high -/
  | clockHigh (hop : opField w = 0x1#4 ∨ opField w = 0x2#4) (hsck : s.sck = 1#1) : Dispatched w s (refuse errSckHigh s)
  /-- R92 -/
  | read (hop : opField w = 0x1#4) (hsck : s.sck = 0#1) : Dispatched w s (startRead 1#1 s)
  /-- R130 -/
  | setgain (hop : opField w = 0x2#4) (hsck : s.sck = 0#1) :
      Dispatched w s (startRead 0#1 (writeGain (gainCode (argField w)) s))
  /-- R131 -/
  | getgain (hop : opField w = 0x3#4) :
      Dispatched w s (complete 0#2 (gainSel (Config.gainSelOfZero s.cycle) s.gain) s)
  /-- R132 -/
  | setfmt (hop : opField w = 0x4#4) :
      Dispatched w s (complete 0#2 0#8
        (writeFormat ((argField w).extractLsb' 1 1) ((argField w).extractLsb' 0 1) s))
  /-- R140 -/
  | pwrdn (hop : opField w = 0x5#4) : Dispatched w s (goto .pdLo s)
  /-- R144 -/
  | pwrup (hop : opField w = 0x6#4) : Dispatched w s (goto .puLo s)
  /-- R151 -/
  | reserved (hop : ∀ op ∈ [0x1#4, 0x2#4, 0x3#4, 0x4#4, 0x5#4, 0x6#4], opField w ≠ op) :
      Dispatched w s (refuse errIllegal s)

theorem dispatched_of_dispatchWord {w : CmdWord} {s t : State} (h : dispatchWord w s = .next t) : Dispatched w s t := by
  rcases dispatchWord_cases w s with
    ⟨hop, hsck, e⟩ | ⟨hop, hsck, e⟩ | ⟨hop, hsck, e⟩ | ⟨hop, e⟩ | ⟨hop, e⟩ | ⟨hop, e⟩ | ⟨hop, e⟩ | ⟨hop, e⟩ <;>
    cases e.symm.trans h
  · exact .clockHigh hop hsck
  · exact .read hop hsck
  · exact .setgain hop hsck
  · exact .getgain hop
  · exact .setfmt hop
  · exact .pwrdn hop
  · exact .pwrup hop
  · exact .reserved hop

/-- `Unreset s t`: a step without reset takes `s` to `t`. -/
inductive Unreset (s : State) : State → Prop
  /-- R93 -/
  | stall (hw : s.wcnt ≠ 0) : Unreset s (stall (beginStep s))
  /-- R94, no command offered -/
  | nothing (hw : s.wcnt = 0) (hst : s.st = .idle) (hv : (s.inputAt 0).cmdValid = 0#1) : Unreset s (beginStep s)
  /-- R94, a word accepted -/
  | accept {t : State} (hw : s.wcnt = 0) (hst : s.st = .idle) (hv : (s.inputAt 0).cmdValid = 1#1)
      (hd : Dispatched (s.inputAt 0).cmd (beginStep s) t) : Unreset s t
  /-- R95 to R100, R141 to R146 -/
  | act (hw : s.wcnt = 0) (hst : s.st ≠ .idle) : Unreset s (act (s.inputAt 0) (beginStep s))

theorem unreset_of_step {s t : State} (h : step s = .next t) (hr : (s.inputAt 0).rst = 0#1) : Unreset s t := by
  by_cases hw : s.wcnt = 0
  · by_cases hst : s.st = .idle
    · rcases BitVec.eq_zero_or_eq_one (s.inputAt 0).cmdValid with hv | hv
      · cases (step_nothing hr hw hst hv).symm.trans h
        exact .nothing hw hst hv
      · exact .accept hw hst hv (dispatched_of_dispatchWord ((step_accept hr hw hst hv).symm.trans h))
    · cases (step_act hr hw hst).symm.trans h
      exact .act hw hst
  · cases (step_stall hr hw).symm.trans h
    exact .stall hw

end Sys2Proof.Machine
end

section
/-! # What the actions of the sequencer states keep (R16 to R23)

`act` is the action of every state but `IDLE`: it writes neither the configuration nor `ERR`, and `RAW`, `PWR` and `BY`
in the states the spec names only. -/

namespace Sys2Proof.Machine

/-- R18, R19, R20, R23: configuration and `ERR` are not written by an action. -/
structure SameConfig (s t : State) : Prop where
  gain : t.gain = s.gain
  bitOrd : t.bitOrd = s.bitOrd
  byteOrd : t.byteOrd = s.byteOrd
  err : t.err = s.err

theorem act_sameConfig (i : Input) (s : State) : SameConfig s (act i s) := by
  cases hst : s.st <;> simp only [act, hst]
  case puEnd => unfold doPuEnd; split <;> exact ⟨rfl, rfl, rfl, rfl⟩
  all_goals exact ⟨rfl, rfl, rfl, rfl⟩

@[simp] theorem act_gain (i : Input) (s : State) : (act i s).gain = s.gain := (act_sameConfig i s).gain
@[simp] theorem act_bitOrd (i : Input) (s : State) : (act i s).bitOrd = s.bitOrd := (act_sameConfig i s).bitOrd
@[simp] theorem act_byteOrd (i : Input) (s : State) : (act i s).byteOrd = s.byteOrd := (act_sameConfig i s).byteOrd
@[simp] theorem act_err (i : Input) (s : State) : (act i s).err = s.err := (act_sameConfig i s).err
@[simp] theorem act_params (i : Input) (s : State) : (act i s).params = s.params := (act_sameInstance i s).params

/-- R17, R100: the only action that writes `RAW` is that of `FIN`, for a kept read. -/
theorem act_raw_ne {i : Input} {s : State} (h : (act i s).raw ≠ s.raw) : s.st = .fin ∧ s.latch = 1#1 := by
  cases hst : s.st <;> simp only [act, hst] at h
  case fin =>
    refine ⟨rfl, ?_⟩
    by_contra hl
    simp [doFin, hl] at h
  case puEnd => unfold doPuEnd at h; split at h <;> exact absurd rfl h
  all_goals exact absurd rfl h

/-- R21, R143, R146: the only actions that write `PWR` are those of `PD_END` and `PU_END`. -/
theorem act_pwr_ne {i : Input} {s : State} (h : (act i s).pwr ≠ s.pwr) :
    (s.st = .pdEnd ∧ (act i s).pwr = 1#1) ∨ (s.st = .puEnd ∧ (act i s).pwr = 0#1) := by
  cases hst : s.st <;> simp only [act, hst] at h ⊢
  case pdEnd => exact .inl ⟨trivial, rfl⟩
  case puEnd =>
    refine .inr ⟨trivial, ?_⟩
    unfold doPuEnd
    split <;> rfl
  all_goals exact absurd rfl h

/-- R16, R91, R98: an action that writes `BY` is the sample of `SMP` or starts a read, which clears it. -/
theorem act_byReg_ne {i : Input} {s : State} (h : (act i s).byReg ≠ s.byReg) :
    s.st = .smp ∨ ((act i s).st = .poll ∧ (act i s).byReg = { b0 := 0#8, b1 := 0#8, b2 := 0#8 }) := by
  cases hst : s.st <;> simp only [act, hst] at h ⊢
  case smp => exact .inl trivial
  case puEnd =>
    unfold doPuEnd at h ⊢
    split
    next hg => exact .inr ⟨rfl, rfl⟩
    next hg => exact absurd rfl (by rwa [if_neg hg] at h)
  all_goals exact absurd rfl h

end Sys2Proof.Machine
end

section
/-! # O25, O26, O28: which steps write which register (R16 to R23, R58, R157) -/

namespace Sys2Proof.Machine

/-- Settles O25: only the accepting steps of SETGAIN and SETFMT write the configuration. -/
theorem configurationWrittenOnlyByItsCommands : Obligations.ConfigurationWrittenOnlyByItsCommands := by
  intro s t h hr
  cases unreset_of_step h hr with
  | stall | nothing | act => simp
  | accept hw hst hv hd =>
    cases hd with
    | setgain hop hsck => exact ⟨fun _ => ⟨hst, hw, hsck, _, hv, decode_setgain hop⟩, by simp⟩
    | setfmt hop => exact ⟨by simp, fun _ => ⟨hst, hw, _, _, _, ⟨hv, decode_setfmt hop⟩, rfl, rfl⟩⟩
    | _ => simp

/-- Settles O26: an accepted command writes of the three registers `BY` only, by starting a read; the rest is `act`. -/
theorem sampleAndPowerRegistersWrittenOnlyByTheirSteps :
    Obligations.SampleAndPowerRegistersWrittenOnlyByTheirSteps := by
  intro s t h hr
  cases unreset_of_step h hr with
  | stall | nothing => simp
  | accept hw hst hv hd => cases hd <;> simp [hw]
  | act hw hst =>
    refine ⟨fun h => ?_, fun h => ⟨hw, act_pwr_ne h⟩, fun h => ⟨hw, act_byReg_ne h⟩⟩
    obtain ⟨hfin, hlatch⟩ := act_raw_ne h
    exact ⟨hfin, hw, hlatch⟩

/-- R152: a refusal changes `ERR` from 0 only, and then to the code that the response carries. -/
theorem refuse_err_ne {c : ErrCode} {s : State} (h : (refuse c s).err ≠ s.err) :
    s.err = 0#2 ∧ (refuse c s).rspV = 1#1 ∧ (refuse c s).rspE = (refuse c s).err ∧ (refuse c s).err = c := by
  by_cases he : s.err = 0#2 <;> simp_all

/-- Settles O28: `ERR` is written by refusals only, and those are answers to a command at `IDLE`. -/
theorem firstRefusalIsKept : Obligations.FirstRefusalIsKept := by
  intro s t h hr hne
  cases unreset_of_step h hr with
  | stall | nothing | act => simp at hne
  | accept hw hst hv hd =>
    cases hd with
    | clockHigh =>
      obtain ⟨he, hvalid, hcode, hc⟩ := refuse_err_ne hne
      exact ⟨he, hst, hw, hvalid, hcode, .inr hc⟩
    | reserved =>
      obtain ⟨he, hvalid, hcode, hc⟩ := refuse_err_ne hne
      exact ⟨he, hst, hw, hvalid, hcode, .inl hc⟩
    | _ => simp at hne

end Sys2Proof.Machine
end

section
/-! # O29: the response marks completion (R24, R155)

A dispatch and an action begin with `RSPV` = 0; they either complete, which responds and goes to `IDLE`, or leave the
response alone and go to another state. -/

namespace Sys2Proof.Machine

/-- From `s` with `RSPV` = 0 to `t`: there is a response exactly at `IDLE`; without one `RSPE` and `RSPD` are kept. -/
structure RespondsAtIdle (s t : State) : Prop where
  valid : t.rspV = 1#1 ↔ t.st = .idle
  keptCode : t.rspV = 0#1 → t.rspE = s.rspE
  keptData : t.rspV = 0#1 → t.rspD = s.rspD

theorem RespondsAtIdle.of_complete (e : ErrCode) (d : Byte) (s t : State) : RespondsAtIdle s (complete e d t) := by
  constructor <;> simp

theorem RespondsAtIdle.of_busy {s t : State} (hst : t.st ≠ .idle) (hv : t.rspV = 0#1) (he : t.rspE = s.rspE)
    (hd : t.rspD = s.rspD) : RespondsAtIdle s t :=
  ⟨by simp [hv, hst], fun _ => he, fun _ => hd⟩

theorem Dispatched.respondsAtIdle {w : CmdWord} {s t : State} (h : Dispatched w s t) (hv : s.rspV = 0#1) :
    RespondsAtIdle s t := by
  cases h with
  | clockHigh | getgain | setfmt | reserved => exact .of_complete ..
  | read | setgain | pwrdn | pwrup => exact .of_busy (by simp) hv rfl rfl

theorem act_respondsAtIdle (i : Input) {s : State} (hst : s.st ≠ .idle) (hv : s.rspV = 0#1) :
    RespondsAtIdle s (act i s) := by
  cases h : s.st <;> simp only [act, h]
  case idle => contradiction
  case fin | pdEnd => exact .of_complete ..
  case poll =>
    refine .of_busy ?_ hv rfl rfl
    unfold doPoll
    split <;> simp
  case smp =>
    refine .of_busy ?_ hv rfl rfl
    simp only [doSmp, goto_st, afterSample]
    split <;> simp
  case puEnd =>
    unfold doPuEnd
    split
    · exact .of_busy (by simp) hv rfl rfl
    · exact .of_complete ..
  all_goals exact .of_busy (by simp [doHi, doLo, doPdLo, doPdHi, doPuLo]) hv rfl rfl

/-- Settles O29: a stall and an idle step respond to nothing; a dispatch and an action respond exactly at `IDLE`. -/
theorem responseMarksCompletion : Obligations.ResponseMarksCompletion := by
  intro s t h hr
  cases unreset_of_step h hr with
  | stall hw => simp [hw]
  | nothing hw hst hv => simp [hst, hv]
  | accept hw hst hv hd =>
    obtain ⟨hvalid, hcode, hdata⟩ := hd.respondsAtIdle (beginStep_rspV s)
    exact ⟨by simp [hw, hv, hvalid], fun h0 => ⟨hcode h0, hdata h0⟩⟩
  | act hw hst =>
    obtain ⟨hvalid, hcode, hdata⟩ :=
      act_respondsAtIdle (s.inputAt 0) (s := beginStep s) (by simpa using hst) (beginStep_rspV s)
    exact ⟨by simp [hw, hst, hvalid], fun h0 => ⟨hcode h0, hdata h0⟩⟩

/-- R28 item 8: after any step, a response is seen at `IDLE` only. -/
theorem step_response_idle {s t : State} (h : step s = .next t) (hv : t.rspV = 1#1) : t.st = .idle := by
  rcases BitVec.eq_zero_or_eq_one (s.inputAt 0).rst with hr | hr
  · obtain ⟨hvalid, -⟩ := responseMarksCompletion s t h hr
    obtain ⟨-, hidle, -⟩ := hvalid.mp hv
    exact hidle
  · cases (step_reset hr).symm.trans h
    rfl

end Sys2Proof.Machine
end

section
/-! # O31: the data line is looked at in `POLL` and `SMP` only (R26, R42) -/

namespace Sys2Proof.Machine

/-- Two states that differ in the record the step consumes take the same step if the levels it looks at agree: `rst`, the
command port, and whatever the action of the sequencer state reads. -/
theorem step_congr {s s' : State} (ha : advance s' = advance s) (hr : (s'.inputAt 0).rst = (s.inputAt 0).rst)
    (hv : (s'.inputAt 0).cmdValid = (s.inputAt 0).cmdValid) (hc : (s'.inputAt 0).cmd = (s.inputAt 0).cmd)
    (hact : s.wcnt = 0 → s.st ≠ .idle → act (s'.inputAt 0) (beginStep s) = act (s.inputAt 0) (beginStep s)) :
    step s' = step s := by
  have hb : beginStep s' = beginStep s := by unfold beginStep; rw [ha]
  have hw : s'.wcnt = s.wcnt := by simpa using congrArg State.wcnt ha
  have hs : s'.st = s.st := by simpa using congrArg State.st ha
  rcases step_cases s with
    ⟨r, e⟩ | ⟨r, w, e⟩ | ⟨r, w, st, v, e⟩ | ⟨r, w, st, v, e⟩ | ⟨r, w, st, e⟩
  · rw [e, step_reset (hr.trans r), ha]
  · rw [e, step_stall (hr.trans r) (by rwa [hw]), hb]
  · rw [e, step_nothing (hr.trans r) (hw.trans w) (hs.trans st) (hv.trans v), hb]
  · rw [e, step_accept (hr.trans r) (hw.trans w) (hs.trans st) (hv.trans v), hb, hc]
  · rw [e, step_act (hr.trans r) (hw.trans w) (by rwa [hs]), hb, hact w st]

/-- R42: only `POLL` and `SMP` look at an input level, and it is `dout`. -/
theorem act_ignores_inputs (i j : Input) {s : State} (hp : s.st ≠ .poll) (hm : s.st ≠ .smp) : act i s = act j s := by
  cases h : s.st <;> simp only [act, h]
  case poll => exact absurd h hp
  case smp => exact absurd h hm

/-- Settles O31: the kind of step does not depend on `dout`, and only the actions of `POLL` and `SMP` look at it. -/
theorem dataLineIgnoredOutsidePollAndSample : Obligations.DataLineIgnoredOutsidePollAndSample := by
  intro s i d rest hi hcond
  have hin : s.inputAt 0 = i := by simp [inputAt_eq, hi]
  have hin' : ({ s with inputs := { i with dout := d } :: rest } : State).inputAt 0 = { i with dout := d } := rfl
  refine step_congr (by simp [advance, hi]) ?_ ?_ ?_ fun hw _ => ?_
  · rw [hin', hin]
  · rw [hin', hin]
  · rw [hin', hin]
  · obtain ⟨hp, hm⟩ := hcond.resolve_right (not_not_intro hw)
    exact act_ignores_inputs _ _ hp hm

end Sys2Proof.Machine
end

section
/-! # O34, O35, O36, O9: the laws of R28

The invariant is cut in two: what holds of the registers in every state (`RegisterBounds`), and what the sequencer state
says of the clock line, the power state, the wait and the count (`PhaseLaw`).  The response is O29's. -/

namespace Sys2Proof.Machine

/-- The part of `Inv` that does not speak of the sequencer state. -/
structure RegisterBounds (s : State) : Prop where
  gain : s.gain = 1#2 ∨ s.gain = 2#2 ∨ s.gain = 3#2
  err : s.err = 0#2 ∨ s.err = 1#2 ∨ s.err = 2#2
  count : s.pcnt.toNat ≤ 27
  legal : s.params.legal
  wait : s.wcnt ≤ s.params.maxWait

/-- The part of `Inv` that belongs to each sequencer state. -/
def PhaseLaw (s : State) : Prop :=
  match s.st with
  | .idle => s.wcnt = 0 ∧ s.sck = s.pwr
  | .poll => s.sck = 0#1 ∧ s.pwr = 0#1 ∧ s.pcnt = 0#5
  | .hi | .smp => s.sck = 0#1 ∧ s.pwr = 0#1 ∧ s.pcnt.toNat < framePulses s.gain
  | .lo => s.sck = 1#1 ∧ s.pwr = 0#1 ∧ s.pcnt.toNat < framePulses s.gain
  | .fin => s.sck = 0#1 ∧ s.pwr = 0#1 ∧ s.pcnt.toNat = framePulses s.gain
  | .pdLo | .puLo => True
  | .pdHi | .puEnd => s.sck = 0#1
  | .pdEnd => s.sck = 1#1

theorem Inv.registerBounds {s : State} (h : Inv s) : RegisterBounds s :=
  ⟨h.laws.gain, h.laws.err, h.laws.count, h.legal, h.wait⟩

theorem Inv.phaseLaw {s : State} (h : Inv s) : PhaseLaw s := by
  obtain ⟨laws, readUp, -, -⟩ := h
  unfold PhaseLaw
  cases hst : s.st
  case idle => exact ⟨laws.idleWait hst, laws.idleClock hst⟩
  case poll => exact ⟨laws.clockLow (by simp [hst]), readUp (by simp [hst, Seq.inRead]), laws.countPoll hst⟩
  case hi | smp =>
    exact ⟨laws.clockLow (by simp [hst]), readUp (by simp [hst, Seq.inRead]), laws.countPulses (by simp [hst])⟩
  case lo => exact ⟨laws.clockHigh hst, readUp (by simp [hst, Seq.inRead]), laws.countPulses (by simp [hst])⟩
  case fin => exact ⟨laws.clockLow (by simp [hst]), readUp (by simp [hst, Seq.inRead]), laws.countFin hst⟩
  case pdLo | puLo => trivial
  case pdHi => exact laws.clockPdHi hst
  case puEnd => exact laws.clockPuEnd hst
  case pdEnd => exact laws.clockPdEnd hst

theorem inv_of_parts {s : State} (hb : RegisterBounds s) (hp : PhaseLaw s) (hrsp : s.rspV = 1#1 → s.st = .idle) :
    Inv s := by
  unfold PhaseLaw at hp
  exact {
    laws := {
      gain := hb.gain
      err := hb.err
      count := hb.count
      response := hrsp
      idleWait := fun h => by rw [h] at hp; exact hp.1
      idleClock := fun h => by rw [h] at hp; exact hp.2
      clockLow := fun h => by rcases h with h | h | h | h <;> rw [h] at hp <;> exact hp.1
      clockHigh := fun h => by rw [h] at hp; exact hp.1
      countPoll := fun h => by rw [h] at hp; exact hp.2.2
      countPulses := fun h => by rcases h with h | h | h <;> rw [h] at hp <;> exact hp.2.2
      countFin := fun h => by rw [h] at hp; exact hp.2.2
      clockPdHi := fun h => by rw [h] at hp; exact hp
      clockPdEnd := fun h => by rw [h] at hp; exact hp
      clockPuEnd := fun h => by rw [h] at hp; exact hp }
    readUp := fun h => by
      cases hst : s.st <;> rw [hst] at h hp
      case poll | hi | lo | smp | fin => exact hp.2.1
      all_goals cases h
    legal := hb.legal
    wait := hb.wait }

/-! ### Reset -/

theorem inv_resetRegs {s : State} (hl : s.params.legal) : Inv (resetRegs s) :=
  inv_of_parts ⟨.inl rfl, .inl rfl, by simp, hl, Nat.zero_le _⟩ ⟨rfl, rfl⟩ (by simp)

theorem Initial.inv {s : State} (h : Initial s) : Inv s := by
  obtain ⟨hl, e⟩ := h
  rw [e]
  exact inv_resetRegs hl

/-- Settles O34: a start is a reset with legal parameters. -/
theorem resetMeetsTheInvariant : Obligations.ResetMeetsTheInvariant :=
  ⟨Initial.inv ⟨by decide, rfl⟩, fun _ h => h.inv⟩

/-- Settles O9: the reset step is `resetRegs`. -/
theorem resetStepSetsEveryRegister : Obligations.ResetStepSetsEveryRegister := by
  intro s hr
  have hword : wordPort (resetRegs (advance s)) = 0#24 := by simp [wordPort, wordOf]
  refine ⟨_, step_reset hr, rfl, hword, ?_, rfl, rfl⟩
  rw [valuePort, hword, BitVec.signExtend_eq_setWidth_of_msb_false (by decide)]
  simp

/-! ### A dispatch keeps both parts -/

theorem gainCode_mem (sel : Byte) : gainCode sel = 1#2 ∨ gainCode sel = 2#2 ∨ gainCode sel = 3#2 := by
  unfold gainCode
  split_ifs <;> simp

/-- R152: a refusal leaves `ERR` at a code if the new one is a code. -/
theorem refuse_err_mem {c : ErrCode} {s : State} (hc : c = 1#2 ∨ c = 2#2)
    (he : s.err = 0#2 ∨ s.err = 1#2 ∨ s.err = 2#2) :
    (refuse c s).err = 0#2 ∨ (refuse c s).err = 1#2 ∨ (refuse c s).err = 2#2 := by
  rw [refuse_err]
  split
  · exact .inr hc
  · exact he

theorem Dispatched.registerBounds {w : CmdWord} {s t : State} (h : Dispatched w s t) (hb : RegisterBounds s) :
    RegisterBounds t := by
  obtain ⟨hgain, herr, hcount, hlegal, hwait⟩ := hb
  cases h with
  | clockHigh => exact ⟨hgain, refuse_err_mem (.inr rfl) herr, hcount, hlegal, hwait⟩
  | reserved => exact ⟨hgain, refuse_err_mem (.inl rfl) herr, hcount, hlegal, hwait⟩
  | read => exact ⟨hgain, herr, Nat.zero_le _, hlegal, hwait⟩
  | setgain => exact ⟨gainCode_mem _, herr, Nat.zero_le _, hlegal, hwait⟩
  | getgain | setfmt | pwrdn | pwrup => exact ⟨hgain, herr, hcount, hlegal, hwait⟩

/-- R91: a read started with the clock line low in the Up state. -/
theorem phaseLaw_startRead (l : Bit) {s : State} (hsck : s.sck = 0#1) (hpwr : s.pwr = 0#1) :
    PhaseLaw (startRead l s) :=
  ⟨hsck, hpwr, rfl⟩

/-- R155: a completion with no wait and the clock line at the level of the power state. -/
theorem phaseLaw_complete (e : ErrCode) (d : Byte) {s : State} (hw : s.wcnt = 0) (hsck : s.sck = s.pwr) :
    PhaseLaw (complete e d s) :=
  ⟨hw, hsck⟩

theorem Dispatched.phaseLaw {w : CmdWord} {s t : State} (h : Dispatched w s t) (hw : s.wcnt = 0)
    (hclk : s.sck = s.pwr) : PhaseLaw t := by
  cases h with
  | clockHigh | getgain | setfmt | reserved => exact phaseLaw_complete _ _ hw hclk
  | read _ hsck | setgain _ hsck => exact phaseLaw_startRead _ hsck (hclk.symm.trans hsck)
  | pwrdn | pwrup => trivial

/-! ### An action keeps both parts -/

/-- R14: every value that is loaded into `WCNT` fits. -/
theorem sub_one_le_maxWait (p : Params) :
    p.tHi - 1 ≤ p.maxWait ∧ p.tLo - 1 ≤ p.maxWait ∧ p.tHold - 1 ≤ p.maxWait := by
  unfold Params.maxWait
  omega

theorem act_wcnt_le (i : Input) {s : State} (h : s.wcnt ≤ s.params.maxWait) : (act i s).wcnt ≤ s.params.maxWait := by
  obtain ⟨hHi, hLo, hHold⟩ := sub_one_le_maxWait s.params
  cases hst : s.st <;> simp only [act, hst]
  case hi => exact hHi
  case lo => exact hLo
  case pdHi | puLo => exact hHold
  case puEnd => unfold doPuEnd; split <;> exact h
  all_goals exact h

/-- R98: the count of five bits does not wrap within a frame. -/
theorem count_succ {s : State} (h : s.pcnt.toNat < framePulses s.gain) :
    (s.pcnt + 1#5).toNat = s.pcnt.toNat + 1 := by
  have := framePulses_le s.gain
  simp only [BitVec.toNat_add, BitVec.toNat_ofNat]
  omega

theorem act_count_le (i : Input) {s : State} (hp : PhaseLaw s) (h : s.pcnt.toNat ≤ 27) :
    (act i s).pcnt.toNat ≤ 27 := by
  unfold PhaseLaw at hp
  cases hst : s.st <;> simp only [act, hst] at hp ⊢
  case smp =>
    obtain ⟨-, -, hlt⟩ := hp
    calc (s.pcnt + 1#5).toNat = s.pcnt.toNat + 1 := count_succ hlt
      _ ≤ framePulses s.gain := hlt
      _ ≤ 27 := framePulses_le s.gain
  case puEnd =>
    unfold doPuEnd
    split
    · exact Nat.zero_le _
    · exact h
  all_goals exact h

theorem act_registerBounds (i : Input) {s : State} (hb : RegisterBounds s) (hp : PhaseLaw s) :
    RegisterBounds (act i s) := by
  obtain ⟨hgain, herr, hcount, hlegal, hwait⟩ := hb
  refine ⟨?_, ?_, act_count_le i hp hcount, ?_, ?_⟩
  · rwa [act_gain]
  · rwa [act_err]
  · rwa [act_params]
  · rw [act_params]
    exact act_wcnt_le i hwait

/-- R99: the frame ends when its pulses are made, and goes on while there are some left. -/
theorem phaseLaw_doSmp (d : Bit) {s : State} (hsck : s.sck = 0#1) (hpwr : s.pwr = 0#1)
    (hlt : s.pcnt.toNat < framePulses s.gain) : PhaseLaw (doSmp d s) := by
  have hcount := count_succ hlt
  by_cases hlast : s.pcnt.toNat + 1 = framePulses s.gain
  · have hst : afterSample s = .fin := if_pos hlast
    simp only [PhaseLaw, doSmp, hst]
    exact ⟨hsck, hpwr, hcount.trans hlast⟩
  · have hst : afterSample s = .hi := if_neg hlast
    simp only [PhaseLaw, doSmp, hst]
    exact ⟨hsck, hpwr, by simpa [hcount] using Nat.lt_of_le_of_ne hlt hlast⟩

/-- R95: a poll leaves the count at 0, below the pulses of any frame. -/
theorem phaseLaw_doPoll (d : Bit) {s : State} (hsck : s.sck = 0#1) (hpwr : s.pwr = 0#1) (hcount : s.pcnt = 0#5) :
    PhaseLaw (doPoll d s) := by
  unfold doPoll
  split
  · exact ⟨hsck, hpwr, by simp [hcount, framePulses]⟩
  · exact ⟨hsck, hpwr, hcount⟩

/-- R146: the block is Up with the clock line low, whether a flush read follows or not. -/
theorem phaseLaw_doPuEnd {s : State} (hw : s.wcnt = 0) (hsck : s.sck = 0#1) : PhaseLaw (doPuEnd s) := by
  unfold doPuEnd
  split
  · exact phaseLaw_startRead _ hsck rfl
  · exact phaseLaw_complete _ _ hw hsck

theorem act_phaseLaw (i : Input) {s : State} (hw : s.wcnt = 0) (hp : PhaseLaw s) : PhaseLaw (act i s) := by
  have h := hp
  unfold PhaseLaw at h
  cases hst : s.st <;> simp only [act, hst] at h ⊢
  case idle => exact hp
  case poll =>
    obtain ⟨hsck, hpwr, hcount⟩ := h
    exact phaseLaw_doPoll _ hsck hpwr hcount
  case hi | lo => exact ⟨rfl, h.2⟩
  case smp =>
    obtain ⟨hsck, hpwr, hlt⟩ := h
    exact phaseLaw_doSmp _ hsck hpwr hlt
  case fin =>
    obtain ⟨hsck, hpwr, -⟩ := h
    exact phaseLaw_complete _ _ hw (hsck.trans hpwr.symm)
  case pdLo | pdHi | puLo => exact rfl
  case pdEnd => exact phaseLaw_complete _ _ hw h
  case puEnd => exact phaseLaw_doPuEnd hw h

/-! ### A step keeps both parts -/

/-- R93: while a wait runs nothing that a sequencer state is bound by changes. -/
theorem phaseLaw_stall {s : State} (hp : PhaseLaw s) : PhaseLaw (stall s) := by
  unfold PhaseLaw at hp ⊢
  simp only [stall_st]
  cases hst : s.st <;> simp only [hst] at hp ⊢
  case idle =>
    obtain ⟨hw, hclk⟩ := hp
    exact ⟨by simp [hw], hclk⟩
  all_goals exact hp

theorem Unreset.registerBounds {s t : State} (h : Unreset s t) (hb : RegisterBounds s) (hp : PhaseLaw s) :
    RegisterBounds t := by
  have hb0 : RegisterBounds (beginStep s) := ⟨hb.gain, hb.err, hb.count, hb.legal, hb.wait⟩
  cases h with
  | stall => exact ⟨hb.gain, hb.err, hb.count, hb.legal, (Nat.sub_le _ _).trans hb.wait⟩
  | nothing => exact hb0
  | accept _ _ _ hd => exact hd.registerBounds hb0
  | act => exact act_registerBounds _ hb0 hp

theorem Unreset.phaseLaw {s t : State} (h : Unreset s t) (hp : PhaseLaw s) : PhaseLaw t := by
  have hp0 : PhaseLaw (beginStep s) := hp
  cases h with
  | stall => exact phaseLaw_stall hp0
  | nothing => exact hp0
  | accept hw hst _ hd =>
    have hidle : s.wcnt = 0 ∧ s.sck = s.pwr := by simpa only [PhaseLaw, hst] using hp
    exact hd.phaseLaw hw hidle.2
  | act hw => exact act_phaseLaw _ hw hp0

/-- Settles O35: a reset step starts anew; any other keeps the bounds and the law of its sequencer state, and its response
is at `IDLE` (O29). -/
theorem stepKeepsTheInvariant : Obligations.StepKeepsTheInvariant := by
  intro s t hinv h
  rcases BitVec.eq_zero_or_eq_one (s.inputAt 0).rst with hr | hr
  · have hstep := unreset_of_step h hr
    exact inv_of_parts (hstep.registerBounds hinv.registerBounds hinv.phaseLaw) (hstep.phaseLaw hinv.phaseLaw)
      (step_response_idle h)
  · cases (step_reset hr).symm.trans h
    exact inv_resetRegs hinv.legal

theorem Reachable.inv {s : State} (h : Reachable s) : Inv s := by
  induction h with
  | start h => exact h.inv
  | next _ hs ih => exact stepKeepsTheInvariant _ _ ih hs

/-- Settles O36: the invariant holds along every run. -/
theorem reachableStatesMeetTheLaws : Obligations.ReachableStatesMeetTheLaws :=
  fun _ h => h.inv.laws

end Sys2Proof.Machine
end

section
/-! # O27: at most one line event per step (R42, R43, R49)

Only the actions of `HI`, `LO`, `PD_LO`, `PD_HI`, `PU_LO` drive the clock line and only those of `POLL` and `SMP` read the
data line; a stall, an idle step and the dispatch of a command touch neither. -/

namespace Sys2Proof.Machine

/-- What a step from `s` to `t` with the level `d` on the data line does on the lines. -/
inductive LineEffect (d : Bit) (s t : State) : Prop
  /-- no event -/
  | silent (htrace : t.trace = s.trace) (hsck : t.sck = s.sck)
  /-- R43 -/
  | drives (v : Bit) (htrace : t.trace = s.trace ++ [.set v]) (hsck : t.sck = v)
      (hst : s.st = .hi ∨ s.st = .lo ∨ s.st = .pdLo ∨ s.st = .pdHi ∨ s.st = .puLo)
  /-- R42 -/
  | reads (htrace : t.trace = s.trace ++ [.get d]) (hsck : t.sck = s.sck) (hst : s.st = .poll ∨ s.st = .smp)

theorem act_lineEffect (i : Input) (s : State) : LineEffect i.dout s (act i s) := by
  cases hst : s.st <;> simp only [act, hst]
  case hi | lo | pdLo | pdHi | puLo => exact .drives _ rfl rfl (by simp [hst])
  case poll | smp => exact .reads rfl rfl (by simp [hst])
  case idle | fin | pdEnd => exact .silent rfl rfl
  case puEnd => unfold doPuEnd; split <;> exact .silent rfl rfl

/-- R22, R49: no dispatch touches the lines. -/
theorem Dispatched.silent {w : CmdWord} {s t : State} (h : Dispatched w s t) : t.trace = s.trace ∧ t.sck = s.sck := by
  cases h <;> exact ⟨rfl, rfl⟩

/-- Settles O27: the action of the sequencer state makes the event; a step of any other kind makes none. -/
theorem atMostOneLineEventPerStep : Obligations.AtMostOneLineEventPerStep := by
  intro s t h hr
  cases unreset_of_step h hr with
  | stall | nothing => exact .inl ⟨rfl, rfl⟩
  | accept _ _ _ hd => exact .inl hd.silent
  | act hw =>
    cases act_lineEffect (s.inputAt 0) (beginStep s) with
    | silent htrace hsck => exact .inl ⟨htrace, hsck⟩
    | drives v htrace hsck hst => exact .inr (.inl ⟨v, htrace, hsck, hw, hst⟩)
    | reads htrace hsck hst => exact .inr (.inr ⟨htrace, hsck, hw, hst⟩)

end Sys2Proof.Machine
end

section
/-! # The place of each sample in the bytes and in the word (R67 to R69, R98) -/

namespace Sys2Proof.Machine

/-- The bit of its byte in which the `i`-th of eight samples ends (R67). -/
def placeInByte (order : Bit) (i : Nat) : Nat := if order = 0#1 then 7 - i else i

theorem placeInByte_lt (order : Bit) {i : Nat} (hi : i < 8) : placeInByte order i < 8 := by
  unfold placeInByte; split <;> omega

/-- One bit of a vector, as a vector of one bit. -/
theorem extractLsb'_one_eq {w v : Nat} {x : BitVec w} {y : BitVec v} {m n : Nat} :
    x.extractLsb' m 1 = y.extractLsb' n 1 ↔ x.getLsbD m = y.getLsbD n := by
  simp [BitVec.eq_of_getLsbD_eq_iff]

/-! ### One shift (R98) -/

/-- R98, R67: the new bit enters in the place of the last sample, and what the byte holds moves to the place of the sample
before. -/
theorem shiftByte_sample (order d : Bit) (b : Byte) {i : Nat} (hi : i < 8) :
    (shiftByte order d b).extractLsb' (placeInByte order i) 1 =
      if i = 7 then d else b.extractLsb' (placeInByte order (i + 1)) 1 := by
  apply BitVec.eq_of_getLsbD_eq
  intro k hk
  obtain rfl : k = 0 := by omega
  rcases BitVec.eq_zero_or_eq_one order with rfl | rfl
  · interval_cases i <;> simp [shiftByte, placeInByte]
  · interval_cases i <;> simp [shiftByte, placeInByte]

/-! ### The 24 shifts of a frame -/

theorem byteAt_shiftInto (order d : Bit) (b : Bytes3) {j m : Nat} (hj : j < 3) (hm : m < 3) :
    byteAt (shiftInto order m d b) j = if j = m then shiftByte order d (byteAt b j) else byteAt b j := by
  interval_cases m <;> interval_cases j <;> rfl

/-- R67, R98: after `k` samples, sample `n` is in byte `n div 8`, as many places before the last one as samples of that
byte came after it. -/
theorem bytesAfter_sample (order : Bit) (a : Nat → Bit) {k n : Nat} (hk : k ≤ 24) (hn : n < k) :
    (byteAt (bytesAfter order a k) (n / 8)).extractLsb'
      (placeInByte order (8 + n % 8 - min 8 (k - 8 * (n / 8)))) 1 = a n := by
  induction k with
  | zero => omega
  | succ k ih =>
    rw [bytesAfter, if_pos (by omega), byteAt_shiftInto _ _ _ (by omega) (by omega)]
    by_cases hbyte : n / 8 = k / 8
    · rw [if_pos hbyte, shiftByte_sample _ _ _ (by omega)]
      by_cases hlast : n = k
      · rw [if_pos (by omega), hlast]
      · rw [if_neg (by omega), ← ih (by omega) (by omega)]
        congr 2
        omega
    · rw [if_neg hbyte, ← ih (by omega) (by omega)]
      congr 2
      omega

theorem bytesAfter_holdsSamples (order : Bit) (a : Nat → Bit) : HoldsSamples order a (bytesAfter order a 24) := by
  intro j hj i hi
  have h := bytesAfter_sample order a (n := 8 * j + i) le_rfl (by omega)
  rwa [show (8 * j + i) / 8 = j by omega, show 8 + (8 * j + i) % 8 - min 8 (24 - 8 * j) = i by omega] at h

/-- R105: the answers to the gain pulses reach no byte. -/
theorem bytesAfter_add_24 (order : Bit) (a : Nat → Bit) (m : Nat) :
    bytesAfter order a (24 + m) = bytesAfter order a 24 := by
  induction m with
  | zero => rfl
  | succ m ih => rw [← Nat.add_assoc, bytesAfter, if_neg (by omega), ih]

theorem bytesAfter_framePulses (order : Bit) (a : Nat → Bit) (g : GainCode) :
    bytesAfter order a (framePulses g) = bytesAfter order a 24 :=
  bytesAfter_add_24 order a g.toNat

/-! ### The bytes in the word (R68, R69) -/

/-- R121: byte 0 is the most significant. -/
theorem getLsbD_wordOf (x : Bytes3) (i : Nat) :
    (wordOf x).getLsbD i =
      if i < 8 then x.b2.getLsbD i else if i - 8 < 8 then x.b1.getLsbD (i - 8) else x.b0.getLsbD (i - 8 - 8) :=
  (BitVec.getLsbD_append (x := x.b0 ++ x.b1) (y := x.b2)).trans (by rw [BitVec.getLsbD_append])

theorem wordOf_bit (x : Bytes3) {j p : Nat} (hj : j < 3) (hp : p < 8) :
    (wordOf x).extractLsb' (8 * (2 - j) + p) 1 = (byteAt x j).extractLsb' p 1 := by
  rw [extractLsb'_one_eq, getLsbD_wordOf]
  interval_cases j
  · simp [byteAt, show 16 + p - 8 = p + 8 by omega, show ¬ 16 + p < 8 by omega]
  · simp [byteAt, hp]
  · simp [byteAt, hp]

/-- R68: with byte order 1 byte `j` of the RawSample is byte `2 − j` as read. -/
theorem byteAt_orderBytes (order : Bit) (x : Bytes3) {j : Nat} (hj : j < 3) :
    byteAt (orderBytes order x) (if order = 0#1 then j else 2 - j) = byteAt x j := by
  unfold orderBytes
  split <;> interval_cases j <;> rfl

theorem samplePos_eq (y order : Bit) (k : Nat) :
    samplePos y order k = 8 * (2 - (if y = 0#1 then k / 8 else 2 - k / 8)) + placeInByte order (k % 8) := rfl

/-- R69: sample `k` is bit `Pos(k)` of the word. -/
theorem wordOf_orderBytes_sample {order : Bit} {a : Nat → Bit} {x : Bytes3} (h : HoldsSamples order a x) (y : Bit)
    {k : Nat} (hk : k < 24) : (wordOf (orderBytes y x)).extractLsb' (samplePos y order k) 1 = a k := by
  have hj : (if y = 0#1 then k / 8 else 2 - k / 8) < 3 := by split <;> omega
  have hsample := h (k / 8) (by omega) (k % 8) (by omega)
  rw [Nat.div_add_mod] at hsample
  rw [samplePos_eq, wordOf_bit _ hj (placeInByte_lt order (by omega)), byteAt_orderBytes _ _ (by omega)]
  exact hsample

end Sys2Proof.Machine
end

section
/-! # O50: a READ delivers the chip's sample (R54, R92, R102, R120, R180) -/

namespace Sys2Proof.Machine

/-! ### The decoder (R120 to R122) -/

/-- R120, R124: `Decode24` is the two's-complement reading. -/
theorem decode24_eq_toInt (u : SampleWord) : decode24 u = u.toInt := by
  have hlow : (u &&& 0x7FFFFF#24).toNat = u.toNat % 2 ^ 23 := by
    simpa using Nat.and_two_pow_sub_one_eq_mod u.toNat 23
  have hhigh : (u &&& 0x800000#24).toNat = u.msb.toNat * 2 ^ 23 := by
    simpa [BitVec.msb_eq_getLsbD_last, BitVec.getLsbD] using Nat.and_two_pow u.toNat 23
  have hmsb : u.msb = decide (2 ^ 23 ≤ u.toNat) := BitVec.msb_eq_decide u
  have hlt := u.isLt
  rw [decode24, hlow, hhigh, BitVec.toInt_eq_msb_cond, hmsb]
  by_cases h : 2 ^ 23 ≤ u.toNat
  · rw [decide_eq_true h, if_pos rfl, Bool.toNat_true]
    omega
  · rw [decide_eq_false h, if_neg Bool.false_ne_true, Bool.toNat_false]
    omega

/-- R122: `value`, read as a signed number, is `Decode24(word)`. -/
theorem valuePort_toInt {s : State} (h : 24 ≤ s.params.valueW) : (valuePort s).toInt = decode24 (wordPort s) := by
  rw [valuePort, BitVec.toInt_signExtend_of_le h, decode24_eq_toInt]

/-! ### The environment of a read, seen from its first poll -/

theorem ReadyAfter.later {m n : Nat} {s t : State} (h : ReadyAfter m n s) (hl : Later m s t) : ReadyAfter 0 n t := by
  obtain ⟨hwait, hready⟩ := h
  refine ⟨fun j hj => ?_, ?_⟩
  · rw [hl.inputAt, Nat.zero_add]
    exact hwait j hj
  · rw [hl.inputAt, Nat.zero_add]
    exact hready

theorem answer_later {m : Nat} {s t : State} (hl : Later m s t) (hp : t.params = s.params) (n : Nat) :
    answer 0 n t = answer m n s := by
  funext k
  simp only [answer, hl.inputAt, hp]
  congr 2
  omega

/-! ### READ as a whole (R92, R102) -/

/-- R94: the accepting step runs the command that the offered word stands for. -/
theorem step_offered {s : State} {i : Instr} (hr : (s.inputAt 0).rst = 0#1) (hw : s.wcnt = 0) (hst : s.st = .idle)
    (ho : Offers i 0 s) : step s = exec i (beginStep s) := by
  obtain ⟨hvalid, hdecode⟩ := ho
  rw [step_accept hr hw hst hvalid, dispatchWord, hdecode]

/-- The block after a completed READ whose first `n` polls were answered 1. -/
def afterReadCommand (n : Nat) (s : State) : State :=
  { s with
    st := .idle
    pcnt := BitVec.ofNat 5 (framePulses s.gain)
    wcnt := 0
    latch := 1#1
    byReg := bytesAfter s.bitOrd (answer 1 n s) 24
    raw := orderBytes s.byteOrd (bytesAfter s.bitOrd (answer 1 n s) 24)
    sck := 0#1, rspV := 1#1, rspE := 0#2, rspD := 0#8
    inputs := s.inputs.drop (1 + readSteps s.params s.gain n)
    cycle := s.cycle + (1 + readSteps s.params s.gain n)
    trace := s.trace ++ readTrace n s.gain (answer 1 n s) }

/-- R102: the accepting step, then the read sequence. -/
theorem run_read_command {s : State} {u : Byte} {n : Nat} (hl : s.params.legal) (hst : s.st = .idle) (hw : s.wcnt = 0)
    (hsck : s.sck = 0#1) (hq : NoReset (1 + readSteps s.params s.gain n) s) (ho : Offers (.read u) 0 s)
    (hr : ReadyAfter 1 n s) :
    run (1 + readSteps s.params s.gain n) s = .next (afterReadCommand n s) := by
  have haccept : step s = .next (startRead 1#1 (beginStep s)) := by
    rw [step_offered (hq 0 (by omega)) hw hst ho]
    exact execRead_low hsck
  have hlater : Later 1 s (startRead 1#1 (beginStep s)) := ⟨by simp, rfl⟩
  have hread := tick_read (startRead 1#1 (beginStep s)) n rfl hw rfl hsck rfl rfl hl (hq.later hlater) (hr.later hlater)
  rw [answer_later hlater rfl, bytesAfter_framePulses] at hread
  rw [run_eq_tick]
  refine congrArg _ ((tick_iterate_add (j := 1) (tick_of_step haccept) hread).trans ?_)
  simp [afterReadCommand, startRead, hw, beginStep, advance, Nat.add_assoc, Nat.add_comm 1]

/-- Settles O50: in the default format sample `k` is bit `23 − k` of the word (R69), which is what `ENV_SHIFT` says of the
chip's sample. -/
theorem readDeliversTheChipSample : Obligations.ReadDeliversTheChipSample := by
  intro s u n c hl hst hw hsck hbit hbyte hq ho hr henv
  have hword : wordPort (afterReadCommand n s) = c := by
    apply BitVec.eq_of_getLsbD_eq
    intro i hi
    have hplace : samplePos 0#1 0#1 (23 - i) = i := by simp only [samplePos, ↓reduceIte]; omega
    have hsample := wordOf_orderBytes_sample (bytesAfter_holdsSamples s.bitOrd (answer 1 n s)) s.byteOrd
      (k := 23 - i) (by omega)
    rw [hbit, hbyte, hplace, henv _ (by omega), extractLsb'_one_eq, show 23 - (23 - i) = i by omega] at hsample
    simpa [wordPort, afterReadCommand, hbit, hbyte] using hsample
  have hvalue : (valuePort (afterReadCommand n s)).toInt = decode24 c := by
    obtain ⟨-, -, -, -, -, -, hvalueW, -⟩ := hl
    exact (valuePort_toInt (s := afterReadCommand n s) hvalueW).trans (congrArg decode24 hword)
  exact ⟨_, run_read_command hl hst hw hsck hq ho hr, rfl, hword, hvalue⟩

end Sys2Proof.Machine
end

section
/-! # O1 to O5, O7: the command word and the reserved opcodes (R60, R70 to R72, R75, R151)

The opcode decides the command (R60), and the argument is kept bit for bit: `decode` and `encode` are inverse to each
other, and every row of the opcode table is read off from that. -/

namespace Sys2Proof

/-! ### The argument of SETFMT (R65) -/

theorem setfmtUnused_append (u : BitVec 6) (y b : Bit) : (u ++ y ++ b : Byte).extractLsb' 2 6 = u :=
  (BitVec.extractLsb'_append_eq_of_le (by decide)).trans BitVec.extractLsb'_append_eq_left

theorem setfmtByteOrd_append (u : BitVec 6) (y b : Bit) : (u ++ y ++ b : Byte).extractLsb' 1 1 = y :=
  (BitVec.extractLsb'_append_eq_of_le le_rfl).trans BitVec.extractLsb'_append_eq_right

theorem setfmtBitOrd_append (u : BitVec 6) (y b : Bit) : (u ++ y ++ b : Byte).extractLsb' 0 1 = b :=
  BitVec.extractLsb'_append_eq_right

/-! ### Decoding and encoding (R60, R70) -/

theorem decode_encode (i : Instr) : decode (encode i) = .ok i := by
  cases i with
  | read u => rw [encode, decode_read (opField_append _ u), argField_append]
  | setgain sel => rw [encode, decode_setgain (opField_append _ sel), argField_append]
  | getgain u => rw [encode, decode_getgain (opField_append _ u), argField_append]
  | setfmt u y b =>
    rw [encode, decode_setfmt (opField_append _ _), argField_append, setfmtUnused_append, setfmtByteOrd_append,
      setfmtBitOrd_append]
  | pwrdn u => rw [encode, decode_pwrdn (opField_append _ u), argField_append]
  | pwrup u => rw [encode, decode_pwrup (opField_append _ u), argField_append]

/-- R70, R71: the opcode of a word that decodes is one of the six of the table, and its row says the command. -/
theorem decode_ok_cases {w : CmdWord} {i : Instr} (h : decode w = .ok i) :
    (opField w = 0x1#4 ∧ i = .read (argField w)) ∨
    (opField w = 0x2#4 ∧ i = .setgain (argField w)) ∨
    (opField w = 0x3#4 ∧ i = .getgain (argField w)) ∨
    (opField w = 0x4#4 ∧ i = .setfmt ((argField w).extractLsb' 2 6) ((argField w).extractLsb' 1 1)
      ((argField w).extractLsb' 0 1)) ∨
    (opField w = 0x5#4 ∧ i = .pwrdn (argField w)) ∨
    (opField w = 0x6#4 ∧ i = .pwrup (argField w)) := by
  unfold decode at h
  split_ifs at h <;> cases h <;> simp [*]

theorem encode_of_decode {w : CmdWord} {i : Instr} (h : decode w = .ok i) : encode i = w := by
  rcases decode_ok_cases h with ⟨hop, rfl⟩ | ⟨hop, rfl⟩ | ⟨hop, rfl⟩ | ⟨hop, rfl⟩ | ⟨hop, rfl⟩ | ⟨hop, rfl⟩
  case inr.inr.inr.inl => rw [encode, argument_split, ← hop, word_split]
  all_goals rw [encode, ← hop, word_split]

/-- Settles O1: a command's word has the opcode of the command and its argument, and the six opcodes differ. -/
theorem decodeOfEncodeIsTheCommand : Obligations.DecodeOfEncodeIsTheCommand := decode_encode

/-- Settles O2: a word is its opcode above its argument, and decoding keeps both. -/
theorem encodeOfDecodeIsTheWord : Obligations.EncodeOfDecodeIsTheWord := fun _ _ => encode_of_decode

/-! ### The opcode map (R70, R75) -/

/-- R70: the mask 0xF00 reads the opcode. -/
theorem mask_eq_iff_opField (w : CmdWord) (op : BitVec 4) : w &&& 0xF00#12 = op ++ 0#8 ↔ opField w = op := by
  have hmask : w &&& 0xF00#12 = opField w ++ 0#8 := by
    simpa only [word_split] using Laws.OpcodeRow.masked (opField w) (argField w)
  rw [hmask]
  refine ⟨fun h => ?_, fun h => by rw [h]⟩
  simpa only [opField_append] using congrArg opField h

/-- A row of the opcode table: a command whose word has the opcode `op`, and to which the words `w` with that opcode
decode, is what `w` stands for exactly when it meets the match value. -/
theorem mask_eq_iff_decode {w : CmdWord} {op : BitVec 4} {i : Instr} (hop : opField (encode i) = op)
    (hdecode : opField w = op → decode w = .ok i) : w &&& 0xF00#12 = op ++ 0#8 ↔ decode w = .ok i := by
  rw [mask_eq_iff_opField]
  exact ⟨hdecode, fun h => encode_of_decode h ▸ hop⟩

/-- R60: the argument is the low bits of the word. -/
theorem argField_extractLsb' (w : CmdWord) {k n : Nat} (h : k + n ≤ 8) :
    (argField w).extractLsb' k n = w.extractLsb' k n :=
  BitVec.extractLsb'_extractLsb'_of_le h

/-- Settles O3: one row of the table after the other. -/
theorem opcodeMapByMatchAndMask : Obligations.OpcodeMapByMatchAndMask := by
  intro w
  refine ⟨mask_eq_iff_decode (op := 0x1#4) (opField_append _ _) decode_read,
    mask_eq_iff_decode (op := 0x2#4) (opField_append _ _) decode_setgain,
    mask_eq_iff_decode (op := 0x3#4) (opField_append _ _) decode_getgain,
    mask_eq_iff_decode (op := 0x4#4) (opField_append _ _) fun h => ?_,
    mask_eq_iff_decode (op := 0x5#4) (opField_append _ _) decode_pwrdn,
    mask_eq_iff_decode (op := 0x6#4) (opField_append _ _) decode_pwrup⟩
  rw [decode_setfmt h, argField_extractLsb' w (by decide), argField_extractLsb' w (by decide),
    argField_extractLsb' w (by decide)]

/-- Settles O4: each word the spec writes out is `encode` of the command it is written for. -/
theorem specWordsDecode : Obligations.SpecWordsDecode :=
  ⟨decode_encode (.read 0), decode_encode (.getgain 0), decode_encode (.pwrdn 0), decode_encode (.pwrup 0),
    decode_encode (.setgain 128), decode_encode (.setgain 64), decode_encode (.setgain 32),
    decode_encode (.setfmt 0 0 0), decode_encode (.setfmt 0 0 1), decode_encode (.setfmt 0 1 0),
    decode_encode (.setfmt 0 1 1)⟩

end Sys2Proof

namespace Sys2Proof.Machine

/-! ### The dispatch of a word (R72, R151) -/

/-- R94: a word is dispatched as the command it stands for, so words whose commands have one meaning do the same. -/
theorem dispatchWord_congr {w w' : CmdWord} {i i' : Instr} {s : State} (h : decode w = .ok i) (h' : decode w' = .ok i')
    (hexec : exec i s = exec i' s) : dispatchWord w s = dispatchWord w' s := by
  rwa [dispatchWord, dispatchWord, h, h']

/-- R65: bits 1 and 0 of the word decide the two flags of SETFMT. -/
theorem argField_flag_congr {w w' : CmdWord} (h : w.extractLsb' 0 2 = w'.extractLsb' 0 2) {k : Nat} (hk : k < 2) :
    (argField w).extractLsb' k 1 = (argField w').extractLsb' k 1 := by
  have hbit (v : CmdWord) : (argField v).extractLsb' k 1 = (v.extractLsb' 0 2).extractLsb' k 1 :=
    (argField_extractLsb' v (by omega)).trans (BitVec.extractLsb'_extractLsb'_of_le (by omega)).symm
  rw [hbit, hbit, h]

/-- Settles O5: both words stand for the same command but for its ignored operand, which no meaning looks at. -/
theorem ignoredArgumentBitsChangeNothing : Obligations.IgnoredArgumentBitsChangeNothing := by
  rintro w w' s heq (hop | hop | hop | hop | ⟨hop, hbits⟩) <;> have hop' := heq.symm.trans hop
  · exact dispatchWord_congr (decode_read hop) (decode_read hop') rfl
  · exact dispatchWord_congr (decode_getgain hop) (decode_getgain hop') rfl
  · exact dispatchWord_congr (decode_pwrdn hop) (decode_pwrdn hop') rfl
  · exact dispatchWord_congr (decode_pwrup hop) (decode_pwrup hop') rfl
  · exact dispatchWord_congr (decode_setfmt hop) (decode_setfmt hop') (congrArg₂ (execSetfmt · · s)
      (argField_flag_congr hbits (by decide)) (argField_flag_congr hbits (by decide)))

/-- R71: a reserved opcode is none of the six of the table. -/
theorem decode_reserved {w : CmdWord} (h : opField w = 0x0#4 ∨ 0x7#4 ≤ opField w) :
    decode w = .error (.reservedOpcode (opField w)) := by
  have hne : ∀ op ∈ [0x1#4, 0x2#4, 0x3#4, 0x4#4, 0x5#4, 0x6#4], opField w ≠ op := by
    revert h
    generalize opField w = op
    revert op
    decide
  simp only [List.forall_mem_cons] at hne
  simp [decode, hne]

/-- Settles O7: the accepting step (R94) refuses a word that stands for no command, and the refusal (R152) writes `ERR`
and the response only. -/
theorem reservedOpcodeIsRefused : Obligations.ReservedOpcodeIsRefused := by
  intro s hr hst hw hv hop
  rw [step_accept hr hw hst hv, dispatchWord, decode_reserved hop]
  simp [refuse, complete, recordErr, errIllegal, beginStep, advance, hst]

end Sys2Proof.Machine
end

section
/-! # O39, O40: the samples in a byte and in the word (R67 to R69, R98) -/

namespace Sys2Proof.Machine

/-! ### One byte -/

/-- R98: a byte that held `b`, after the samples `a 0` to `a (k − 1)`. -/
def shiftSamples (order : Bit) (a : Nat → Bit) (b : Byte) (k : Nat) : Byte :=
  (List.range k).foldl (fun x n => shiftByte order (a n) x) b

theorem shiftSamples_succ (order : Bit) (a : Nat → Bit) (b : Byte) (k : Nat) :
    shiftSamples order a b (k + 1) = shiftByte order (a k) (shiftSamples order a b k) := by
  simp [shiftSamples, List.range_succ]

/-- R67: after `k` shifts, sample `n` is as many places before the last one as samples came after it. -/
theorem shiftSamples_sample (order : Bit) (a : Nat → Bit) (b : Byte) {k n : Nat} (hk : k ≤ 8) (hn : n < k) :
    (shiftSamples order a b k).extractLsb' (placeInByte order (8 + n - k)) 1 = a n := by
  induction k with
  | zero => omega
  | succ k ih =>
    rw [shiftSamples_succ, shiftByte_sample _ _ _ (by omega)]
    by_cases hlast : n = k
    · rw [if_pos (by omega), hlast]
    · rw [if_neg (by omega), show 8 + n - (k + 1) + 1 = 8 + n - k by omega]
      exact ih (by omega) (by omega)

/-- Settles O39: after eight shifts no place is left that the eight samples did not reach. -/
theorem eightSamplesFillAByte : Obligations.EightSamplesFillAByte := by
  intro order a b k hk
  simpa [shiftSamples, placeInByte] using shiftSamples_sample order a b le_rfl hk

/-! ### The permutation `Pos` (R69) -/

/-- The closed forms of the table of R69. -/
theorem samplePos_closed_forms {k : Nat} (hk : k < 24) :
    samplePos 0#1 0#1 k = 23 - k ∧ samplePos 0#1 1#1 k = 8 * (2 - k / 8) + k % 8 ∧
    samplePos 1#1 0#1 k = 8 * (k / 8) + 7 - k % 8 ∧ samplePos 1#1 1#1 k = k := by
  have hne : (1#1 : Bit) ≠ 0#1 := by decide
  refine ⟨?_, rfl, ?_, ?_⟩ <;> simp only [samplePos, hne, ↓reduceIte] <;> omega

theorem samplePos_lt (y order : Bit) {k : Nat} (hk : k < 24) : samplePos y order k < 24 := by
  unfold samplePos
  split <;> split <;> omega

/-- R69: `Pos` keeps or reverses the order of the bytes, and of the bits of a byte, so in each format it is its own
inverse. -/
theorem samplePos_samplePos (y order : Bit) {k : Nat} (hk : k < 24) :
    samplePos y order (samplePos y order k) = k := by
  unfold samplePos
  split <;> split <;> omega

/-- Settles O40: the bit `p` of the word is the place of the sample `Pos(p)` and of no other. -/
theorem samplePlacesInTheWord : Obligations.SamplePlacesInTheWord := by
  refine ⟨fun y _ _ _ h _ hk => wordOf_orderBytes_sample h y hk, fun _ hk => samplePos_closed_forms hk,
    fun y order p hp => ⟨samplePos y order p, samplePos_lt y order hp, samplePos_samplePos y order hp, ?_⟩⟩
  rintro k hk rfl
  exact (samplePos_samplePos y order hk).symm

end Sys2Proof.Machine
end

section
/-! # O6, O8, O10 to O13, O15, O16, O19: one step of the read sequence (R90 to R100)

The five kinds of step (R156) and the meaning of the action or command that runs in it. -/

namespace Sys2Proof.Machine

/-! ### The step at `IDLE` and the command it runs (R92, R94) -/

/-- A word offered by `withFetchWord` that the decoder reads as a command is an offer of that command. -/
theorem offers_withFetchWord {s : State} {nbits w : Nat} {i : Instr} (h : decodeTableWord nbits w = some i) :
    Offers i 0 (s.withFetchWord nbits w) := by
  refine ⟨rfl, ?_⟩
  show decode (portWord nbits w) = .ok i
  unfold decodeTableWord at h
  split at h
  next i' hdecode => rw [hdecode, Option.some.inj h]
  next => cases h

/-- Settles O6: the accepting step dispatches the word (R94), and `withFetchWord` offers one to a block at `IDLE`. -/
theorem stepRunsTheDecodedCommand : Obligations.StepRunsTheDecodedCommand :=
  ⟨fun _ _ hr hst hw ho => step_offered hr hw hst ho,
    fun _ _ _ _ h => step_offered rfl rfl rfl (offers_withFetchWord h)⟩

/-- Settles O8: whatever its kind, a step answers a next state. -/
theorem stepNeverStops : Obligations.StepNeverStops := step_next

/-- Settles O10: a stall takes its inputs and counts down. -/
theorem stallOnlyCountsDown : Obligations.StallOnlyCountsDown := fun _ hr hw => step_stall hr hw

/-- Settles O11: a step with nothing offered only takes its inputs. -/
theorem idleStepWithoutCommand : Obligations.IdleStepWithoutCommand := fun _ hr hw hst hv => step_nothing hr hw hst hv

/-- R92: READ with the clock line low, whatever its ignored argument. -/
theorem exec_read_low (u : Byte) {s : State} (h : s.sck = 0#1) : exec (.read u) s = .next (startRead 1#1 s) :=
  execRead_low h

/-- R130: SETGAIN with the clock line low. -/
theorem exec_setgain_low (sel : Byte) {s : State} (h : s.sck = 0#1) :
    exec (.setgain sel) s = .next (startRead 0#1 (writeGain (gainCode sel) s)) :=
  execSetgain_low sel h

/-- Settles O19: the meaning of READ is `StartRead(1)` (R91, R92). -/
theorem readStartsAKeptRead : Obligations.ReadStartsAKeptRead := fun u _ h => exec_read_low u h

/-! ### The actions of a read (R95 to R100) -/

section
variable {s : State} (hr : (s.inputAt 0).rst = 0#1) (hw : s.wcnt = 0)
include hr hw

theorem step_poll (hst : s.st = .poll) : step s = .next (doPoll (s.inputAt 0).dout (beginStep s)) := by
  rw [step_act hr hw (by simp [hst]), act, beginStep_st, hst]

theorem step_hi (hst : s.st = .hi) : step s = .next (doHi (beginStep s)) := by
  rw [step_act hr hw (by simp [hst]), act, beginStep_st, hst]

theorem step_lo (hst : s.st = .lo) : step s = .next (doLo (beginStep s)) := by
  rw [step_act hr hw (by simp [hst]), act, beginStep_st, hst]

theorem step_smp (hst : s.st = .smp) : step s = .next (doSmp (s.inputAt 0).dout (beginStep s)) := by
  rw [step_act hr hw (by simp [hst]), act, beginStep_st, hst]

theorem step_fin (hst : s.st = .fin) : step s = .next (doFin (beginStep s)) := by
  rw [step_act hr hw (by simp [hst]), act, beginStep_st, hst]

end

/-- Settles O12: `POLL` reads the data line and goes where the level says. -/
theorem pollStep : Obligations.PollStep := fun _ hr hw hst => step_poll hr hw hst

/-- Settles O13: `HI` and `LO` drive the clock line and load the wait that follows. -/
theorem clockEdgeSteps : Obligations.ClockEdgeSteps :=
  fun _ hr hw => ⟨fun hst => step_hi hr hw hst, fun hst => step_lo hr hw hst⟩

/-- R98: a data bit enters the byte `PCNT div 8`. -/
theorem byteAt_doSmp (d : Bit) {s : State} (h : s.pcnt.toNat < 24) {j : Nat} (hj : j < 3) :
    byteAt (doSmp d s).byReg j =
      if j = s.pcnt.toNat / 8 then shiftByte s.bitOrd d (byteAt s.byReg j) else byteAt s.byReg j := by
  rw [← byteAt_shiftInto _ _ _ hj (by omega)]
  exact congrArg (byteAt · j) (if_pos h)

/-- R105: the answer to a gain pulse reaches no byte. -/
theorem doSmp_byReg_of_le (d : Bit) {s : State} (h : 24 ≤ s.pcnt.toNat) : (doSmp d s).byReg = s.byReg :=
  if_neg (by simpa using h)

/-- Settles O15: the byte of a data bit is shifted, and nothing else of `BY` changes. -/
theorem sampleStep : Obligations.SampleStep := by
  intro s hr hw hst
  refine ⟨_, step_smp hr hw hst, rfl, fun h => doSmp_byReg_of_le _ h, fun h j hj => ?_⟩
  rw [ite_not]
  exact byteAt_doSmp _ (s := beginStep s) h hj

/-- Settles O16: `FIN` keeps or drops the sample and responds. -/
theorem finishStep : Obligations.FinishStep := fun _ hr hw hst => step_fin hr hw hst

end Sys2Proof.Machine
end

section
/-! # The script along a run, and the waits (R14, R90, R93) -/

namespace Sys2Proof.Machine

/-! ### The place of a run in the script (R90) -/

theorem later_iterate (k : Nat) (s : State) : Later k s (tick^[k] s) := by
  induction k with
  | zero => exact ⟨rfl, rfl⟩
  | succ k ih =>
    rw [Function.iterate_succ_apply']
    obtain ⟨-, hinputs, hcycle, -⟩ := stepKeepsTheInstance _ _ (step_eq_tick (tick^[k] s))
    exact ih.trans ⟨by rw [hinputs, List.drop_one], hcycle⟩

theorem later_of_step {s t : State} (h : step s = .next t) : Later 1 s t :=
  tick_of_step h ▸ later_iterate 1 s

/-! ### Waits (R93) -/

/-- The block after `j` stalls. -/
def waited (j : Nat) (s : State) : State :=
  { s with wcnt := s.wcnt - j, inputs := s.inputs.drop j, cycle := s.cycle + j }

theorem tick_waited {j : Nat} {s : State} (hj : j ≤ s.wcnt) (hv : s.rspV = 0#1) (hq : NoReset j s) :
    tick^[j] s = waited j s := by
  induction j with
  | zero => rfl
  | succ j ih =>
    have hlater : Later j s (waited j s) := ⟨rfl, rfl⟩
    have hreset : ((waited j s).inputAt 0).rst = 0#1 := by rw [hlater.inputAt]; exact hq j (by omega)
    rw [Function.iterate_succ_apply', ih (by omega) (hq.mono (by omega)),
      tick_of_step (step_stall hreset (by simp only [waited]; omega))]
    simp [stall, beginStep, advance, waited, hv, Nat.sub_sub, Nat.add_assoc]

/-- A step to `t`, and then `j` stalls of the wait it loaded. -/
theorem tick_step_waited {j : Nat} {s t : State} (h : step s = .next t) (hj : j ≤ t.wcnt) (hv : t.rspV = 0#1)
    (hq : NoReset (1 + j) s) : tick^[1 + j] s = waited j t :=
  tick_iterate_add (tick_of_step h) (tick_waited hj hv (hq.later (later_of_step h)))

end Sys2Proof.Machine
end

section
/-! # O14: one pulse on the clock line (R96, R97) -/

namespace Sys2Proof.Machine

/-- The block when the clock line has been high for the `T_HI` periods of a pulse that began at `s`. -/
def highPhaseOver (s : State) : State := waited (s.params.tHi - 1) (doHi (beginStep s))

section
variable {s : State} (hst : s.st = .hi) (hw : s.wcnt = 0)
include hst hw

/-- R96: the rising edge, and `j` periods after it. -/
theorem tick_high_phase {j : Nat} (hj : j < s.params.tHi) (hq : NoReset (1 + j) s) :
    tick^[1 + j] s = waited j (doHi (beginStep s)) :=
  tick_step_waited (step_hi (hq 0 (by omega)) hw hst) (Nat.le_sub_one_of_lt hj) rfl hq

/-- R97: the falling edge, and `j` periods after it. -/
theorem tick_low_phase {j : Nat} (hhi : 1 ≤ s.params.tHi) (hj : j < s.params.tLo)
    (hq : NoReset (s.params.tHi + (1 + j)) s) :
    tick^[s.params.tHi + (1 + j)] s = waited j (doLo (beginStep (highPhaseOver s))) := by
  have hhigh : tick^[s.params.tHi] s = highPhaseOver s := by
    have h := tick_high_phase hst hw (Nat.sub_one_lt_of_lt hhi) (hq.mono (by omega))
    rwa [Nat.add_sub_cancel' hhi] at h
  have hlater : Later s.params.tHi s (highPhaseOver s) := hhigh ▸ later_iterate _ s
  have hlow := hq.later hlater
  exact tick_iterate_add hhigh (tick_step_waited
    (step_lo (hlow 0 (by omega)) (Nat.sub_self _) rfl) (Nat.le_sub_one_of_lt hj) rfl hlow)

end

/-- Settles O14: `HI` and its wait, then `LO` and its wait. -/
theorem onePulseOnTheClockLine : Obligations.OnePulseOnTheClockLine := by
  rintro s ⟨hhi, hlo, -⟩ hst hw hq
  refine ⟨step_hi (hq 0 (by omega)) hw hst, fun j hj hjhi => ?_, fun j hjhi hj => ?_, ?_⟩
  · obtain ⟨j, rfl⟩ := Nat.exists_eq_add_of_le hj
    exact ⟨_, (run_eq_tick _ s).trans (congrArg _ (tick_high_phase hst hw (by omega) (hq.mono (by omega)))), rfl, rfl⟩
  · obtain ⟨j, rfl⟩ := Nat.exists_eq_add_of_lt hjhi
    rw [run_eq_tick, Nat.add_assoc, Nat.add_comm j 1]
    exact ⟨_, congrArg _ (tick_low_phase hst hw hhi (by omega) (hq.mono (by omega))), rfl, rfl⟩
  · obtain ⟨l, hl⟩ := Nat.exists_eq_add_of_le hlo
    rw [run_eq_tick, hl, tick_low_phase hst hw hhi (by omega) (hq.mono (by omega))]
    simp [waited, highPhaseOver, doHi, doLo, loadWait, goto, lineSet, beginStep, advance, hl]
    omega

end Sys2Proof.Machine
end

section
/-! # O48: the wait for ready has no limit (R95, R106, R154) -/

namespace Sys2Proof.Machine

/-- R95: after `m` steps that lead to `POLL`, `n` polls answered 1. -/
theorem run_polls_not_ready {m n : Nat} {s t : State} (h : tick^[m] s = t) (hst : t.st = .poll) (hw : t.wcnt = 0)
    (hv : t.rspV = 0#1) (hq : NoReset (m + n) s) (hd : ∀ j < n, (s.inputAt (m + j)).dout = 1#1) :
    run (m + n) s = .next
      { t with inputs := s.inputs.drop (m + n), cycle := s.cycle + (m + n)
               trace := t.trace ++ List.replicate n (.get 1#1) } := by
  have hlater : Later m s t := h ▸ later_iterate m s
  have hpolls := tick_polls_not_ready n t hst hw hv (hq.later hlater) fun j hj => by rw [hlater.inputAt]; exact hd j hj
  obtain ⟨hinputs, hcycle⟩ := hlater
  rw [hinputs, hcycle, List.drop_drop, Nat.add_assoc] at hpolls
  rw [run_eq_tick, tick_iterate_add h hpolls]

/-- The block when a PWRUP accepted at `s` has held the clock line low and starts its flush read. -/
def powerUpFlush (s : State) : State :=
  { s with
    st := .poll, wcnt := 0, pwr := 0#1, sck := 0#1, latch := 0#1, pcnt := 0#5
    byReg := { b0 := 0#8, b1 := 0#8, b2 := 0#8 }, rspV := 0#1
    inputs := s.inputs.drop (s.params.tHold + 2), cycle := s.cycle + (s.params.tHold + 2)
    trace := s.trace ++ [.set 0#1] }

theorem step_puLo {s : State} (hr : (s.inputAt 0).rst = 0#1) (hw : s.wcnt = 0) (hst : s.st = .puLo) :
    step s = .next (doPuLo (beginStep s)) := by
  rw [step_act hr hw (by simp [hst]), act, beginStep_st, hst]

theorem step_puEnd {s : State} (hr : (s.inputAt 0).rst = 0#1) (hw : s.wcnt = 0) (hst : s.st = .puEnd) :
    step s = .next (doPuEnd (beginStep s)) := by
  rw [step_act hr hw (by simp [hst]), act, beginStep_st, hst]

/-- R144 to R146: the accepting step of PWRUP, the hold, and the step that starts the flush read. -/
theorem tick_powerUp_flush {s : State} {u : Byte} (hhold : 1 ≤ s.params.tHold) (hst : s.st = .idle) (hw : s.wcnt = 0)
    (hg : s.gain ≠ 1#2) (hq : NoReset (s.params.tHold + 2) s) (ho : Offers (.pwrup u) 0 s) :
    tick^[s.params.tHold + 2] s = powerUpFlush s := by
  obtain ⟨h, hh⟩ := Nat.exists_eq_add_of_le hhold
  have hsteps : s.params.tHold + 2 = 1 + (1 + h + 1) := by omega
  have haccept : step s = .next (goto .puLo (beginStep s)) := step_offered (hq 0 (by omega)) hw hst ho
  generalize hs1 : goto .puLo (beginStep s) = s1 at haccept
  have hq1 : NoReset (1 + h + 1) s1 := NoReset.later (hsteps ▸ hq) (later_of_step haccept)
  have hlow : tick^[1 + h] s1 = waited h (doPuLo (beginStep s1)) := by
    subst hs1
    exact tick_step_waited (step_puLo (hq1 0 (by omega)) hw rfl) (by simp [doPuLo, hh]) rfl (hq1.mono (by omega))
  generalize hs2 : waited h (doPuLo (beginStep s1)) = s2 at hlow
  have hend : step s2 = .next (doPuEnd (beginStep s2)) := by
    refine step_puEnd (hq1.later (hlow ▸ later_iterate _ s1) 0 (by omega)) ?_ ?_ <;> subst hs2 hs1
    · simp [waited, doPuLo, hh]
    · rfl
  rw [hsteps, tick_iterate_add (j := 1) (tick_of_step haccept) (tick_iterate_add (k := 1) hlow (tick_of_step hend))]
  subst hs2 hs1
  simp [powerUpFlush, doPuEnd, hg, startRead, writePwr, waited, doPuLo, goto, loadWait, lineSet, beginStep, advance, hh]
  omega

/-- Settles O48: the steps that lead to the first poll, and then polls answered 1. -/
theorem readWaitsWithoutLimit : Obligations.ReadWaitsWithoutLimit := by
  intro s n hst hw
  refine ⟨fun u hsck hq ho hd => ?_, fun sel hsck hq ho hd => ?_, fun u hl hg hq ho hd => ?_⟩
  · have haccept := (step_offered (hq 0 (by omega)) hw hst ho).trans (exec_read_low u hsck)
    exact run_polls_not_ready (m := 1) (tick_of_step haccept) rfl hw rfl hq hd
  · have haccept := (step_offered (hq 0 (by omega)) hw hst ho).trans (exec_setgain_low sel hsck)
    exact run_polls_not_ready (m := 1) (tick_of_step haccept) rfl hw rfl hq hd
  · obtain ⟨-, -, hhold, -⟩ := hl
    have hflush := tick_powerUp_flush hhold hst hw hg (hq.mono (by omega)) ho
    rw [run_polls_not_ready hflush rfl rfl rfl hq hd]
    simp [powerUpFlush]

end Sys2Proof.Machine
end

section
/-! # O41, O42, O44: a read as a whole (R101 to R104) -/

namespace Sys2Proof.Machine

/-! ### The line events (R101, R103) -/

theorem readTrace_eq (n : Nat) (g : GainCode) (a : Nat → Bit) :
    readTrace n g a = List.replicate n (.get 1#1) ++ .get 0#1 :: pulseTrace a (framePulses g) := rfl

/-- R103: a pulse has one edge of either direction. -/
theorem count_set_pulseTrace (v : Bit) (a : Nat → Bit) (k : Nat) : (pulseTrace a k).count (.set v) = k := by
  induction k with
  | zero => rfl
  | succ k ih =>
    rw [pulseTrace_succ, List.count_append, ih]
    rcases BitVec.eq_zero_or_eq_one v with rfl | rfl <;> simp

/-- R101, R103: the polls make no edge. -/
theorem count_set_readTrace (v : Bit) (n : Nat) (g : GainCode) (a : Nat → Bit) :
    (readTrace n g a).count (.set v) = framePulses g := by
  simp [readTrace_eq, List.count_replicate, count_set_pulseTrace]

/-- Settles O41: the read sequence, with its line events counted. -/
theorem readSequenceOnTheLines : Obligations.ReadSequenceOnTheLines := by
  intro s n hl hst hw hv hp hb hsck hq hr
  refine ⟨_, (run_eq_tick _ s).trans (congrArg _ (tick_read s n hst hw hv hsck hp hb hl hq hr)), rfl, rfl, rfl, rfl, rfl,
    count_set_readTrace _ n s.gain _, count_set_readTrace _ n s.gain _⟩

/-- Settles O42: the bytes hold the 24 data answers (R67), and `RAW` is those bytes in the order of the flag (R68, R69). -/
theorem readKeepsTheSample : Obligations.ReadKeepsTheSample := by
  intro s u n hl hst hw hsck hq ho hr
  have hsamples := bytesAfter_holdsSamples s.bitOrd (answer 1 n s)
  obtain ⟨-, -, -, -, -, -, hvalueW, -⟩ := id hl
  exact ⟨_, run_read_command hl hst hw hsck hq ho hr, rfl, hsamples, rfl,
    fun k hk => wordOf_orderBytes_sample hsamples s.byteOrd hk, valuePort_toInt (s := afterReadCommand n s) hvalueW⟩

/-! ### A read in flight -/

/-- A command is in flight: the block is busy and does not respond. -/
structure InFlight (s : State) : Prop where
  response : s.rspV = 0#1
  notIdle : s.st ≠ .idle

theorem InFlight.busy_eq_one {s : State} (h : InFlight s) : busy s = 1#1 := if_neg h.notIdle

/-- What `StartRead` leaves (R91), with legal parameters (R7) and the clock line low; the sequencer is at `x`, the first poll
or the first pulse. -/
structure ReadBegun (x : Seq) (s : State) : Prop where
  st : s.st = x
  wait : s.wcnt = 0
  response : s.rspV = 0#1
  clock : s.sck = 0#1
  count : s.pcnt = 0#5
  bytes : s.byReg = { b0 := 0#8, b1 := 0#8, b2 := 0#8 }
  legal : s.params.legal

/-- R96, R97: within a pulse the block is at `LO` or at `SMP`. -/
theorem inFlight_in_pulse {s : State} {j : Nat} (hst : s.st = .hi) (hw : s.wcnt = 0) (hv : s.rspV = 0#1)
    (hhi : 1 ≤ s.params.tHi) (hj : j < pulseSteps s.params) (hq : NoReset j s) : InFlight (tick^[j] s) := by
  unfold pulseSteps at hj
  rcases Nat.eq_zero_or_pos j with rfl | hpos
  · exact ⟨hv, by simp [hst]⟩
  · by_cases hhigh : j ≤ s.params.tHi
    · obtain ⟨i, rfl⟩ := Nat.exists_eq_add_of_le hpos
      rw [tick_high_phase hst hw (by omega) hq]
      exact ⟨rfl, Seq.noConfusion⟩
    · obtain ⟨i, rfl⟩ := Nat.exists_eq_add_of_lt (Nat.lt_of_not_le hhigh)
      rw [Nat.add_assoc, Nat.add_comm i 1] at hq ⊢
      rw [tick_low_phase hst hw hhi (by omega) hq]
      exact ⟨rfl, Seq.noConfusion⟩

/-- R96 to R99: the pulses of a frame, and then `FIN`. -/
theorem inFlight_in_frame {s : State} {m : Nat} (h : ReadBegun .hi s)
    (hm : m ≤ framePulses s.gain * pulseSteps s.params) (hq : NoReset m s) : InFlight (tick^[m] s) := by
  have hpulses := tick_pulses s h.st h.wait h.response h.clock h.count h.bytes h.legal
  rcases hm.lt_or_eq with hlt | rfl
  · have hpulse : m / pulseSteps s.params < framePulses s.gain := Nat.div_lt_of_lt_mul (Nat.mul_comm _ _ ▸ hlt)
    have hmod : m % pulseSteps s.params < pulseSteps s.params := Nat.mod_lt _ (Nat.succ_pos _)
    rw [← Nat.div_add_mod' m (pulseSteps s.params)] at hq ⊢
    have hbegun := hpulses _ hpulse.le (hq.mono (Nat.le_add_right _ _))
    have hrest := hq.later (hbegun ▸ later_iterate _ s)
    rw [tick_iterate_add hbegun rfl]
    exact inFlight_in_pulse (if_neg hpulse.ne) h.wait h.response h.legal.1 hmod hrest
  · rw [hpulses _ le_rfl hq]
    exact ⟨h.response, by simp [inFrame]⟩

/-- R95: the poll answered 0 leads from `POLL` to the first pulse. -/
theorem ReadBegun.after_polls {s : State} {n : Nat} (h : ReadBegun .poll s) (hq : NoReset (n + 1) s)
    (hr : ReadyAfter 0 n s) :
    ReadBegun .hi (tick^[n + 1] s) ∧ (tick^[n + 1] s).gain = s.gain ∧ (tick^[n + 1] s).params = s.params := by
  obtain ⟨hwait, hready⟩ := hr
  have hpolls := tick_polls_not_ready n s h.st h.wait h.response (hq.mono (by omega))
    fun j hj => Nat.zero_add j ▸ hwait j hj
  have hlater := later_iterate n s
  rw [Nat.zero_add, ← Nat.add_zero n, ← hlater.inputAt] at hready
  have hlast := hq.later hlater
  rw [hpolls] at hready hlast
  rw [tick_iterate_add (k := 1) hpolls (tick_poll_ready _ h.st h.wait h.response hlast hready)]
  exact ⟨⟨rfl, h.wait, h.response, h.clock, h.count, h.bytes, h.legal⟩, rfl, rfl⟩

/-- R104: from the first poll to `FIN` a read is in flight. -/
theorem inFlight_in_read {s : State} {n k : Nat} (h : ReadBegun .poll s) (hk : k < readSteps s.params s.gain n)
    (hq : NoReset k s) (hr : ReadyAfter 0 n s) : InFlight (tick^[k] s) := by
  by_cases hpoll : k ≤ n
  · rw [tick_polls_not_ready k s h.st h.wait h.response hq fun j hj => Nat.zero_add j ▸ hr.1 j (by omega)]
    exact ⟨h.response, by simp [h.st]⟩
  · obtain ⟨m, rfl⟩ := Nat.exists_eq_add_of_le (Nat.lt_of_not_le hpoll)
    obtain ⟨hbegun, hgain, hparams⟩ := h.after_polls (hq.mono (by omega)) hr
    rw [tick_iterate_add rfl rfl]
    refine inFlight_in_frame hbegun ?_ (hq.later (later_iterate _ s))
    rw [hgain, hparams]
    unfold readSteps at hk
    omega

/-! ### The duration of READ and SETGAIN (R104) -/

/-- R92, R130: with the clock line low READ and SETGAIN start a read, SETGAIN with the new gain code. -/
theorem exec_starts_read {s : State} {i : Instr} {g : GainCode} (hsck : s.sck = 0#1)
    (hi : (∃ u, i = .read u ∧ g = s.gain) ∨ (∃ sel, i = .setgain sel ∧ g = gainCode sel)) :
    ∃ l, exec i s = .next (startRead l (writeGain g s)) := by
  rcases hi with ⟨u, rfl, rfl⟩ | ⟨sel, rfl, rfl⟩
  · exact ⟨_, exec_read_low u hsck⟩
  · exact ⟨_, exec_setgain_low sel hsck⟩

/-- Settles O44: the accepting step and then the read, in flight until it ends. -/
theorem readAndSetgainDuration : Obligations.ReadAndSetgainDuration := by
  intro s i g n hl hst hw hsck hi hq ho hr
  obtain ⟨l, hexec⟩ := exec_starts_read (s := beginStep s) hsck hi
  have haccept := (step_offered (hq 0 (by omega)) hw hst ho).trans hexec
  generalize hs1 : startRead l (writeGain g (beginStep s)) = s1 at haccept
  have hbegun : ReadBegun .poll s1 := by subst hs1; exact ⟨rfl, hw, rfl, hsck, rfl, rfl, hl⟩
  have hsteps : 1 + (n + 1) + (24 + g.toNat) * (s.params.tHi + s.params.tLo + 1) + 1 =
      1 + readSteps s1.params s1.gain n := by
    subst hs1
    simp only [readSteps, framePulses, pulseSteps, startRead_params, startRead_gain, writeGain_params, writeGain_gain,
      beginStep_params, Nat.add_assoc]
  have hlater := later_of_step haccept
  have hready := hr.later hlater
  rw [hsteps] at hq ⊢
  refine ⟨⟨_, (run_eq_tick _ s).trans (congrArg _ (tick_iterate_add (j := 1) (tick_of_step haccept)
    (tick_read s1 n hbegun.st hbegun.wait hbegun.response hbegun.clock hbegun.count hbegun.bytes hbegun.legal
      (hq.later hlater) hready))), rfl, rfl, rfl⟩, fun k hpos hk => ?_⟩
  obtain ⟨k, rfl⟩ := Nat.exists_eq_add_of_le hpos
  have hflight := inFlight_in_read hbegun (by omega) ((hq.mono (by omega : 1 + k ≤ _)).later hlater) hready
  rw [run_eq_tick, tick_iterate_add (j := 1) (tick_of_step haccept) rfl]
  exact ⟨_, rfl, hflight.response, hflight.busy_eq_one⟩

end Sys2Proof.Machine
end

section
/-! # O37, O38: the decoder and the ports `word` and `value` (R120 to R124) -/

namespace Sys2Proof.Machine

/-! ### The equal forms of `Decode24` (R124) -/

/-- R124: the top bit of a sample divides its values into the two halves. -/
theorem getLsbD_23_iff (u : SampleWord) : u.getLsbD 23 = true ↔ 2 ^ 23 ≤ u.toNat := by
  have hmsb : u.getLsbD 23 = decide (2 ^ 23 ≤ u.toNat) := (BitVec.msb_eq_getLsbD_last u).symm.trans u.msb_eq_decide
  rw [hmsb, decide_eq_true_iff]

/-- R124: on the upper half `Decode24` takes 2^24 away. -/
theorem decode24_eq_if (u : SampleWord) :
    decode24 u = if 2 ^ 23 ≤ u.toNat then (u.toNat : Int) - 2 ^ 24 else (u.toNat : Int) := by
  simp [decode24_eq_toInt, BitVec.toInt_eq_msb_cond, BitVec.msb_eq_decide]

/-- R124: the lower 23 bits, less 2^23 times the top bit. -/
theorem decode24_eq_fields (u : SampleWord) :
    decode24 u = ((u.extractLsb' 0 23).toNat : Int) - 2 ^ 23 * ((u.extractLsb' 23 1).toNat : Int) := by
  have hlow : (u.extractLsb' 0 23).toNat = u.toNat % 2 ^ 23 := BitVec.extractLsb'_toNat ..
  have htop : (u.extractLsb' 23 1).toNat = u.toNat / 2 ^ 23 % 2 := by
    rw [BitVec.extractLsb'_toNat, Nat.shiftRight_eq_div_pow, pow_one]
  have hlt := u.isLt
  rw [decode24_eq_if, hlow, htop]
  split <;> omega

/-- R124: the decoder loses no information. -/
theorem decode24_emod (u : SampleWord) : decode24 u % 2 ^ 24 = (u.toNat : Int) := by
  have hlt := u.isLt
  rw [decode24_eq_if]
  split <;> omega

/-! ### `Decode24` as a map onto its range (R124) -/

theorem decode24_injective {u v : SampleWord} (h : decode24 u = decode24 v) : u = v := by
  rwa [decode24_eq_toInt, decode24_eq_toInt, BitVec.toInt_inj] at h

theorem decode24_ofInt {z : Int} (hlow : -8388608 ≤ z) (hhigh : z ≤ 8388607) : decode24 (BitVec.ofInt 24 z) = z := by
  rw [decode24_eq_toInt, BitVec.toInt_ofInt_eq_self (by decide) hlow (Int.lt_add_one_of_le hhigh)]

theorem decode24_lt_of_same_half {u v : SampleWord} (h : u.toNat < v.toNat)
    (hhalf : v.toNat ≤ 0x7FFFFF ∨ 0x800000 ≤ u.toNat) : decode24 u < decode24 v := by
  rw [decode24_eq_if, decode24_eq_if]
  rcases hhalf with hlower | hupper
  · rw [if_neg (by omega), if_neg (by omega)]
    omega
  · rw [if_pos (by omega), if_pos (by omega)]
    omega

/-- Settles O37: each form is that of the signed reading, and 24 bits are read one to one. -/
theorem decoderIsTwosComplement : Obligations.DecoderIsTwosComplement := by
  refine ⟨fun u => ⟨?_, decode24_eq_toInt u, decode24_eq_fields u, decode24_emod u, ?_, ?_⟩,
    fun _ _ => decode24_injective, fun z hlow hhigh => ⟨_, decode24_ofInt hlow hhigh⟩,
    fun _ _ => decode24_lt_of_same_half⟩
  · simp only [decode24_eq_if, getLsbD_23_iff]
  · exact decode24_eq_toInt u ▸ u.le_toInt
  · exact decode24_eq_toInt u ▸ Int.le_of_lt_add_one u.toInt_lt

/-! ### The bytes of `word` and the bits of `value` (R121, R122) -/

/-- R121: each byte of the RawSample has its place in `word`. -/
theorem wordOf_byteAt (x : Bytes3) {j : Nat} (hj : j < 3) : (wordOf x).extractLsb' (8 * (2 - j)) 8 = byteAt x j := by
  interval_cases j
  · exact (BitVec.extractLsb'_append_eq_of_le (by decide)).trans BitVec.extractLsb'_append_eq_left
  · exact (BitVec.extractLsb'_append_eq_of_le le_rfl).trans BitVec.extractLsb'_append_eq_right
  · exact BitVec.extractLsb'_append_eq_right

/-- R121: `word` as a number. -/
theorem wordOf_toNat (x : Bytes3) :
    (wordOf x).toNat = x.b0.toNat * 2 ^ 16 + x.b1.toNat * 2 ^ 8 + x.b2.toNat := by
  rw [wordOf, BitVec.toNat_append, ← Nat.shiftLeft_add_eq_or_of_lt x.b2.isLt, BitVec.toNat_append,
    ← Nat.shiftLeft_add_eq_or_of_lt x.b1.isLt, Nat.shiftLeft_eq, Nat.shiftLeft_eq]
  omega

/-- R122: `value` is `word` with its top bit copied upwards. -/
theorem getLsbD_valuePort (s : State) {k : Nat} (hk : k < s.params.valueW) :
    (valuePort s).getLsbD k = if k < 24 then (wordPort s).getLsbD k else (wordPort s).getLsbD 23 := by
  rw [valuePort, BitVec.getLsbD_signExtend, decide_eq_true hk, Bool.true_and, BitVec.msb_eq_getLsbD_last]

/-- Settles O38: `word` is cut back into its bytes, and `value` is read bit by bit. -/
theorem wordAndValuePorts : Obligations.WordAndValuePorts := by
  intro s hw
  refine ⟨wordOf_byteAt (j := 0) _ (by decide), wordOf_byteAt (j := 1) _ (by decide),
    wordOf_byteAt (j := 2) _ (by decide), wordOf_toNat _, valuePort_toInt hw, fun k hk => ?_, fun k hk hkw => ?_⟩
  · rw [getLsbD_valuePort s (hk.trans_le hw), if_pos hk]
  · rw [getLsbD_valuePort s hkw, if_neg hk.not_gt]

end Sys2Proof.Machine
end

section
/-! # O20, O22, O23, O43, O45: the configuration commands (R62, R63, R130 to R134) -/

namespace Sys2Proof.Machine

/-! ### The commands at the accepting step (R130 to R132) -/

/-- Settles O20: the gain code of the selector is written, then `StartRead(0)` (R62, R91, R130). -/
theorem setgainWritesGainAndStartsAFlushRead : Obligations.SetgainWritesGainAndStartsAFlushRead :=
  fun sel _ h => exec_setgain_low sel h

/-- R131: GETGAIN, whatever its ignored argument. -/
theorem exec_getgain (u : Byte) (s : State) :
    exec (.getgain u) s = .next (complete 0#2 (gainSel (Config.gainSelOfZero s.cycle) s.gain) s) := rfl

/-- R63: the three gain codes with a selector. -/
theorem gainSel_of_code (free : Byte) :
    gainSel free 1#2 = 128#8 ∧ gainSel free 2#2 = 32#8 ∧ gainSel free 3#2 = 64#8 := ⟨rfl, rfl, rfl⟩

/-- Settles O22: the response carries the selector of the gain code (R63). -/
theorem getgainReportsTheSelector : Obligations.GetgainReportsTheSelector := by
  intro u s
  obtain ⟨hcode1, hcode2, hcode3⟩ := gainSel_of_code (Config.gainSelOfZero s.cycle)
  exact ⟨_, exec_getgain u s, fun h => h ▸ hcode1, fun h => h ▸ hcode2, fun h => h ▸ hcode3⟩

/-- R132: SETFMT, whatever its ignored argument bits. -/
theorem exec_setfmt (u : BitVec 6) (y b : Bit) (s : State) :
    exec (.setfmt u y b) s = .next (complete 0#2 0#8 (writeFormat y b s)) := rfl

/-- Settles O23: the two flags are written, then the response (R65). -/
theorem setfmtWritesTheFormatFlags : Obligations.SetfmtWritesTheFormatFlags := exec_setfmt

/-! ### A flush read (R91, R95 to R101) -/

/-- The block after a flush read that `StartRead(0)` began in `s` and whose first `n` polls were answered 1. -/
def afterFlushRead (n : Nat) (s : State) : State :=
  { s with
    st := .idle
    pcnt := BitVec.ofNat 5 (framePulses s.gain)
    latch := 0#1
    byReg := bytesAfter s.bitOrd (answer 0 n s) 24
    sck := 0#1, rspV := 1#1, rspE := 0#2, rspD := 0#8
    inputs := s.inputs.drop (readSteps s.params s.gain n)
    cycle := s.cycle + readSteps s.params s.gain n
    trace := s.trace ++ readTrace n s.gain (answer 0 n s) }

/-- R100, R101: the read sequence with `LATCH` = 0 drops its sample: `RAW` is not written. -/
theorem tick_flush_read {s : State} {n : Nat} (hl : s.params.legal) (hw : s.wcnt = 0) (hv : s.rspV = 0#1)
    (hsck : s.sck = 0#1) (hq : NoReset (readSteps s.params s.gain n) s) (hr : ReadyAfter 0 n s) :
    tick^[readSteps s.params s.gain n] (startRead 0#1 s) = afterFlushRead n s := by
  have hread := tick_read (startRead 0#1 s) n rfl hw hv hsck rfl rfl hl hq hr
  rw [bytesAfter_framePulses] at hread
  exact hread

/-! ### SETGAIN as a whole (R130, R134) -/

/-- R130: the accepting step, then a flush read with the new gain code. -/
theorem run_setgain_command {s : State} {sel : Byte} {n : Nat} (hl : s.params.legal) (hst : s.st = .idle)
    (hw : s.wcnt = 0) (hsck : s.sck = 0#1) (hq : NoReset (1 + readSteps s.params (gainCode sel) n) s)
    (ho : Offers (.setgain sel) 0 s) (hr : ReadyAfter 1 n s) :
    run (1 + readSteps s.params (gainCode sel) n) s =
      .next (afterFlushRead n (writeGain (gainCode sel) (beginStep s))) := by
  have haccept := (step_offered (hq 0 (by omega)) hw hst ho).trans (exec_setgain_low sel hsck)
  have hlater := later_of_step haccept
  have hflush := tick_flush_read (s := writeGain (gainCode sel) (beginStep s)) hl hw rfl hsck (hq.later hlater)
    (hr.later hlater)
  exact (run_eq_tick _ s).trans (congrArg _ (tick_iterate_add (j := 1) (tick_of_step haccept) hflush))

/-- Settles O43: `BY` holds the 24 data answers (R67), and `RAW` is the one before. -/
theorem setgainFlushesWithTheNewGain : Obligations.SetgainFlushesWithTheNewGain := by
  intro s sel n hl hst hw hsck hq ho hr
  have hlater : Later 1 s (writeGain (gainCode sel) (beginStep s)) := ⟨List.drop_one.symm, rfl⟩
  have hanswer := answer_later hlater rfl n
  refine ⟨_, run_setgain_command hl hst hw hsck hq ho hr, ?_, ?_⟩
  · simp only [afterFlushRead, hanswer]
    simp [writeGain, beginStep, advance, framePulses, hw, Nat.add_assoc, Nat.add_comm 1]
  · rw [← hanswer]
    exact bytesAfter_holdsSamples s.bitOrd _

/-- R134: `GainSel` undoes `GainCode` on the three selectors, and any other selector stands for 128. -/
theorem gainSel_gainCode (free sel : Byte) :
    gainSel free (gainCode sel) = if sel = 128#8 ∨ sel = 64#8 ∨ sel = 32#8 then sel else 128#8 := by
  by_cases h128 : sel = 128#8
  · rw [h128]; rfl
  by_cases h64 : sel = 64#8
  · rw [h64]; rfl
  by_cases h32 : sel = 32#8
  · rw [h32]; rfl
  · rw [gainCode, if_neg h128, if_neg h64, if_neg h32, if_neg (by simp [h128, h64, h32])]; rfl

/-- Settles O45: the completed SETGAIN leaves the gain code of its selector, which GETGAIN reads back. -/
theorem gainRoundTrip : Obligations.GainRoundTrip := by
  intro s sel u n hl hst hw hsck hq ho hr
  refine ⟨_, run_setgain_command hl hst hw hsck hq ho hr, rfl, ?_⟩
  rw [exec_getgain, ← gainSel_gainCode]
  rfl

end Sys2Proof.Machine
end

section
/-! # O17, O18, O24: the steps of the power commands (R140 to R146) -/

namespace Sys2Proof.Machine

/-! ### The commands at the accepting step (R140, R144) -/

theorem exec_pwrdn (u : Byte) (s : State) : exec (.pwrdn u) s = .next (goto .pdLo s) := rfl

theorem exec_pwrup (u : Byte) (s : State) : exec (.pwrup u) s = .next (goto .puLo s) := rfl

/-- Settles O24: neither command looks at the state, and only `ST` is written. -/
theorem powerCommandsStart : Obligations.PowerCommandsStart := fun u s => ⟨exec_pwrdn u s, exec_pwrup u s⟩

/-! ### The actions of a power-down (R141 to R143) -/

section
variable {s : State} (hr : (s.inputAt 0).rst = 0#1) (hw : s.wcnt = 0)
include hr hw

theorem step_pdLo (hst : s.st = .pdLo) : step s = .next (doPdLo (beginStep s)) := by
  rw [step_act hr hw (by simp [hst]), act, beginStep_st, hst]

theorem step_pdHi (hst : s.st = .pdHi) : step s = .next (doPdHi (beginStep s)) := by
  rw [step_act hr hw (by simp [hst]), act, beginStep_st, hst]

theorem step_pdEnd (hst : s.st = .pdEnd) : step s = .next (doPdEnd (beginStep s)) := by
  rw [step_act hr hw (by simp [hst]), act, beginStep_st, hst]

end

/-- Settles O17: the three actions, one a sequencer state. -/
theorem powerDownSteps : Obligations.PowerDownSteps :=
  fun _ hr hw => ⟨step_pdLo hr hw, step_pdHi hr hw, step_pdEnd hr hw⟩

/-! ### The actions of a power-up (R145, R146) -/

theorem doPuEnd_of_gain_one {s : State} (h : s.gain = 1#2) : doPuEnd s = complete 0#2 0#8 (writePwr 0#1 s) :=
  if_neg (not_not.2 h)

theorem doPuEnd_of_gain_ne_one {s : State} (h : s.gain ≠ 1#2) : doPuEnd s = startRead 0#1 (writePwr 0#1 s) := if_pos h

/-- Settles O18: `PU_END` completes or starts a flush read, by the gain code. -/
theorem powerUpSteps : Obligations.PowerUpSteps := by
  intro s hr hw
  refine ⟨step_puLo hr hw, fun hst hg => ?_, fun hst hg => ?_⟩
  · rw [step_puEnd hr hw hst, doPuEnd_of_gain_one (s := beginStep s) hg]
    rfl
  · rw [step_puEnd hr hw hst, doPuEnd_of_gain_ne_one (s := beginStep s) hg]
    rfl

end Sys2Proof.Machine
end

section
/-! # O46: PWRDN as a whole (R140 to R143) -/

namespace Sys2Proof.Machine

/-- The step that follows `j` of `k` steps without reset has `rst` = 0 as well. -/
theorem NoReset.rst_after {j k : Nat} {s t : State} (h : NoReset k s) (hjk : j < k) (ht : tick^[j] s = t) :
    (t.inputAt 0).rst = 0#1 := by
  have hlater : Later j s t := ht ▸ later_iterate j s
  rw [hlater.inputAt]
  exact h j hjk

/-- R141: the block when a PWRDN accepted at `s` has driven the clock line low. -/
def powerDownLow (s : State) : State := doPdLo (beginStep (goto .pdLo (beginStep s)))

/-- R142: the block when that PWRDN has driven the clock line high and the hold starts. -/
def powerDownHold (s : State) : State := doPdHi (beginStep (powerDownLow s))

/-- The block after a completed PWRDN. -/
def afterPowerDown (s : State) : State :=
  { s with
    st := .idle, wcnt := 0, pwr := 1#1, sck := 1#1, rspV := 1#1, rspE := 0#2, rspD := 0#8
    inputs := s.inputs.drop (s.params.tHold + 3), cycle := s.cycle + (s.params.tHold + 3)
    trace := s.trace ++ [.set 0#1, .set 1#1] }

section
variable {s : State} {u : Byte} (hst : s.st = .idle) (hw : s.wcnt = 0) (ho : Offers (.pwrdn u) 0 s)
include hst hw ho

/-- R140, R141: the accepting step and `PD_LO`. -/
theorem tick_powerDown_low (hq : NoReset 2 s) : tick^[2] s = powerDownLow s := by
  have haccept := (step_offered (hq 0 (by omega)) hw hst ho).trans (exec_pwrdn u _)
  have hlow := step_pdLo (hq.rst_after (j := 1) (by omega) (tick_of_step haccept)) hw rfl
  exact tick_iterate_add (j := 1) (k := 1) (tick_of_step haccept) (tick_of_step hlow)

/-- R142: `PD_HI`, and `j` periods of the hold after it. -/
theorem tick_powerDown_hold {j : Nat} (hj : j < s.params.tHold) (hq : NoReset (3 + j) s) :
    tick^[3 + j] s = waited j (powerDownHold s) := by
  have hlow := tick_powerDown_low hst hw ho (hq.mono (by omega))
  have hhigh := step_pdHi (hq.rst_after (by omega) hlow) hw rfl
  rw [show 3 + j = 2 + (1 + j) by omega] at hq ⊢
  exact tick_iterate_add hlow
    (tick_step_waited hhigh (Nat.le_sub_one_of_lt hj) rfl (hq.later (hlow ▸ later_iterate 2 s)))

/-- R143: the hold, and `PD_END`. -/
theorem tick_powerDown (hhold : 1 ≤ s.params.tHold) (hq : NoReset (s.params.tHold + 3) s) :
    tick^[s.params.tHold + 3] s = afterPowerDown s := by
  obtain ⟨h, hh⟩ := Nat.exists_eq_add_of_le' hhold
  have hover := tick_powerDown_hold hst hw ho (j := h) (by omega) (hq.mono (by omega))
  have hwait : (waited h (powerDownHold s)).wcnt = 0 := by
    simp [waited, powerDownHold, powerDownLow, doPdHi, doPdLo, hh]
  have hend := step_pdEnd (hq.rst_after (by omega) hover) hwait rfl
  rw [show s.params.tHold + 3 = 3 + h + 1 by omega, tick_iterate_add (k := 1) hover (tick_of_step hend)]
  simp [doPdEnd, complete, writePwr, beginStep, advance, waited, powerDownHold, powerDownLow, doPdHi, doPdLo, goto,
    loadWait, lineSet, afterPowerDown, hh, Nat.add_comm]
  omega

end

/-- Settles O46: low after `PD_LO`, high through the hold, Down at its end. -/
theorem powerDownHoldsTheClockHigh : Obligations.PowerDownHoldsTheClockHigh := by
  rintro s u ⟨-, -, hhold, -⟩ hst hw hq ho
  refine ⟨?_, ?_, fun k hk hkhold => ?_⟩
  · rw [run_eq_tick, tick_powerDown hst hw ho hhold hq]
    rfl
  · rw [run_eq_tick, tick_powerDown_low hst hw ho (hq.mono (by omega))]
    exact ⟨_, rfl, rfl, rfl⟩
  · obtain ⟨j, rfl⟩ := Nat.exists_eq_add_of_le hk
    rw [run_eq_tick, tick_powerDown_hold hst hw ho (by omega) (hq.mono (by omega))]
    exact ⟨_, rfl, rfl, rfl, rfl, rfl⟩

end Sys2Proof.Machine
end

section
/-! # O47: PWRUP as a whole (R144 to R146, R181) -/

namespace Sys2Proof.Machine

/-- R145: the block when a PWRUP accepted at `s` has driven the clock line low and the hold starts. -/
def powerUpHold (s : State) : State := doPuLo (beginStep (goto .puLo (beginStep s)))

/-- The block after a completed PWRUP that made no flush read. -/
def afterPowerUp (s : State) : State :=
  { s with
    st := .idle, wcnt := 0, pwr := 0#1, sck := 0#1, rspV := 1#1, rspE := 0#2, rspD := 0#8
    inputs := s.inputs.drop (s.params.tHold + 2), cycle := s.cycle + (s.params.tHold + 2)
    trace := s.trace ++ [.set 0#1] }

section
variable {s : State} {u : Byte} (hst : s.st = .idle) (hw : s.wcnt = 0) (ho : Offers (.pwrup u) 0 s)
include hst hw ho

/-- R144: the accepting step. -/
theorem tick_powerUp_accepted (hq : NoReset 1 s) : tick^[1] s = goto .puLo (beginStep s) :=
  tick_of_step ((step_offered (hq 0 Nat.one_pos) hw hst ho).trans (exec_pwrup u _))

/-- R145: `PU_LO`, and `j` periods of the hold after it. -/
theorem tick_powerUp_hold {j : Nat} (hj : j < s.params.tHold) (hq : NoReset (2 + j) s) :
    tick^[2 + j] s = waited j (powerUpHold s) := by
  have haccepted := tick_powerUp_accepted hst hw ho (hq.mono (by omega))
  have hlow := step_puLo (hq.rst_after (by omega) haccepted) hw rfl
  rw [show 2 + j = 1 + (1 + j) by omega] at hq ⊢
  exact tick_iterate_add haccepted
    (tick_step_waited hlow (Nat.le_sub_one_of_lt hj) rfl (hq.later (haccepted ▸ later_iterate 1 s)))

/-- R146, gain code 1: the hold, and `PU_END`, which completes. -/
theorem tick_powerUp (hhold : 1 ≤ s.params.tHold) (hg : s.gain = 1#2) (hq : NoReset (s.params.tHold + 2) s) :
    tick^[s.params.tHold + 2] s = afterPowerUp s := by
  obtain ⟨h, hh⟩ := Nat.exists_eq_add_of_le' hhold
  have hover := tick_powerUp_hold hst hw ho (j := h) (by omega) (hq.mono (by omega))
  have hwait : (waited h (powerUpHold s)).wcnt = 0 := by simp [waited, powerUpHold, doPuLo, hh]
  have hend := step_puEnd (hq.rst_after (by omega) hover) hwait rfl
  rw [doPuEnd_of_gain_one (s := beginStep (waited h (powerUpHold s))) hg] at hend
  rw [show s.params.tHold + 2 = 2 + h + 1 by omega, tick_iterate_add (k := 1) hover (tick_of_step hend)]
  simp [complete, writePwr, beginStep, advance, waited, powerUpHold, doPuLo, goto, loadWait, lineSet, afterPowerUp, hh,
    Nat.add_comm]
  omega

/-- R146, another gain code: the hold, `PU_END`, and the flush read that it starts. -/
theorem tick_powerUp_flush_read {n : Nat} (hl : s.params.legal) (hg : s.gain ≠ 1#2)
    (hq : NoReset (s.params.tHold + 2 + readSteps s.params s.gain n) s) (hr : ReadyAfter 0 n (powerUpFlush s)) :
    tick^[s.params.tHold + 2 + readSteps s.params s.gain n] s = afterFlushRead n (powerUpFlush s) := by
  obtain ⟨-, -, hhold, -⟩ := id hl
  have hflush := tick_powerUp_flush hhold hst hw hg (hq.mono (by omega)) ho
  have hrest : NoReset (readSteps s.params s.gain n) (powerUpFlush s) := hq.later ⟨rfl, rfl⟩
  exact tick_iterate_add hflush (tick_flush_read (s := powerUpFlush s) hl rfl rfl rfl hrest hr)

/-- R144, R145: from the accepting step to the end of the hold the command is in flight. -/
theorem inFlight_before_powerUp_end {k : Nat} (hpos : 1 ≤ k) (hk : k < s.params.tHold + 2) (hq : NoReset k s) :
    InFlight (tick^[k] s) := by
  rcases hpos.eq_or_lt with rfl | hlow
  · rw [tick_powerUp_accepted hst hw ho hq]
    exact ⟨rfl, Seq.noConfusion⟩
  · obtain ⟨j, rfl⟩ := Nat.exists_eq_add_of_le hlow
    rw [tick_powerUp_hold hst hw ho (by omega) hq]
    exact ⟨rfl, Seq.noConfusion⟩

/-- R146, R181: with a flush read the command is in flight until that read ends. -/
theorem inFlight_in_powerUp_flush {n k : Nat} (hl : s.params.legal) (hg : s.gain ≠ 1#2) (hpos : 1 ≤ k)
    (hk : k < s.params.tHold + 2 + readSteps s.params s.gain n) (hq : NoReset k s)
    (hr : ReadyAfter 0 n (powerUpFlush s)) : InFlight (tick^[k] s) := by
  by_cases hbefore : k < s.params.tHold + 2
  · exact inFlight_before_powerUp_end hst hw ho hpos hbefore hq
  · obtain ⟨j, rfl⟩ := Nat.exists_eq_add_of_le (Nat.le_of_not_lt hbefore)
    obtain ⟨-, -, hhold, -⟩ := id hl
    have hflush := tick_powerUp_flush hhold hst hw hg (hq.mono (by omega)) ho
    have hbegun : ReadBegun .poll (powerUpFlush s) := ⟨rfl, rfl, rfl, rfl, rfl, rfl, hl⟩
    rw [tick_iterate_add hflush rfl]
    exact inFlight_in_read hbegun (Nat.add_lt_add_iff_left.1 hk) (hq.later ⟨rfl, rfl⟩) hr

end

/-- Settles O47: the hold; then the response at once, or the flush read and its response. -/
theorem powerUpHoldsTheClockLowAndFlushes : Obligations.PowerUpHoldsTheClockLowAndFlushes := by
  intro s u hl hst hw ho
  refine ⟨fun k hk hkhold hq => ?_, fun hg hq => ?_, fun hg n hq hr => ?_⟩
  · obtain ⟨j, rfl⟩ := Nat.exists_eq_add_of_le hk
    rw [run_eq_tick, tick_powerUp_hold hst hw ho (by omega) hq]
    exact ⟨_, rfl, rfl, rfl, rfl, rfl⟩
  · obtain ⟨-, -, hhold, -⟩ := hl
    rw [run_eq_tick, tick_powerUp hst hw ho hhold hg hq]
    rfl
  · have hlater : Later (s.params.tHold + 2) s (powerUpFlush s) := ⟨rfl, rfl⟩
    have hready := hr.later hlater
    have hanswer : answer 0 n (powerUpFlush s) = answer (s.params.tHold + 2) n s := answer_later hlater rfl n
    rw [run_eq_tick, tick_powerUp_flush_read hst hw ho hl hg hq hready]
    refine ⟨_, rfl, ?_, ?_, fun k hpos hk => ?_⟩
    · simp only [afterFlushRead, hanswer]
      simp [powerUpFlush, framePulses, Nat.add_assoc]
    · rw [← hanswer]
      exact bytesAfter_holdsSamples s.bitOrd _
    · have hflight := inFlight_in_powerUp_flush hst hw ho hl hg hpos hk (hq.mono hk.le) hready
      exact ⟨_, run_eq_tick k s, hflight.response, hflight.busy_eq_one⟩

end Sys2Proof.Machine
end

section
/-! # O53: the pseudo-command RESET (R76, R147) -/

namespace Sys2Proof.Machine

theorem Offers.later {i : Instr} {m : Nat} {s t : State} (h : Offers i m s) (hl : Later m s t) : Offers i 0 t := by
  rw [Offers, hl.inputAt]
  exact h

/-- R94: the block after `m` steps at `IDLE` with nothing offered; the first of them takes back the response. -/
def idled (m : Nat) (s : State) : State :=
  { s with rspV := if m = 0 then s.rspV else 0#1, inputs := s.inputs.drop m, cycle := s.cycle + m }

theorem tick_idled {m : Nat} {s : State} (hst : s.st = .idle) (hw : s.wcnt = 0) (hq : NoReset m s)
    (hn : ∀ j < m, (s.inputAt j).cmdValid = 0#1) : tick^[m] s = idled m s := by
  induction m with
  | zero => rfl
  | succ m ih =>
    have hidle := ih (hq.mono (by omega)) fun j hj => hn j (by omega)
    have hlater : Later m s (idled m s) := ⟨rfl, rfl⟩
    have hquiet : ((idled m s).inputAt 0).cmdValid = 0#1 := by rw [hlater.inputAt]; exact hn m (by omega)
    rw [tick_iterate_add (k := 1) hidle
      (tick_of_step (step_nothing (hq.rst_after (by omega) hidle) hw hst hquiet))]
    simp [idled, beginStep, advance, Nat.add_assoc]

/-- R147: the block when PWRUP is offered: `m` idle steps after the response to a PWRDN accepted at `s`. -/
def downAndIdled (m : Nat) (s : State) : State := idled m (afterPowerDown s)

theorem tick_powerDown_idled {s : State} {u : Byte} {m : Nat} (hl : s.params.legal) (hst : s.st = .idle)
    (hw : s.wcnt = 0) (hq : NoReset (s.params.tHold + 3 + m) s) (ho : Offers (.pwrdn u) 0 s)
    (hn : NoOffer (s.params.tHold + 3) m s) : tick^[s.params.tHold + 3 + m] s = downAndIdled m s := by
  obtain ⟨-, -, hhold, -⟩ := hl
  have hlater : Later (s.params.tHold + 3) s (afterPowerDown s) := ⟨rfl, rfl⟩
  exact tick_iterate_add (tick_powerDown hst hw ho hhold (hq.mono (by omega)))
    (tick_idled rfl rfl (hq.later hlater) fun j hj => by rw [hlater.inputAt]; exact hn j hj)

/-- Settles O53: PWRUP finds the registers that PWRDN kept; READ finds the clock line low. -/
theorem pseudoResetEndsUpReadyToRead : Obligations.PseudoResetEndsUpReadyToRead := by
  intro s u v x m n K flush hl hst hw hcase hq hdown hn hup
  have hsteps : s.params.tHold + 3 + m ≤ K := by
    obtain ⟨-, rfl, -⟩ | ⟨-, rfl, -⟩ := hcase <;> exact Nat.le_add_right _ _
  have hidle := tick_powerDown_idled hl hst hw (hq.mono hsteps) hdown hn
  have hlater : Later (s.params.tHold + 3 + m) s (downAndIdled m s) := hidle ▸ later_iterate _ s
  have hoffer := hup.later hlater
  obtain ⟨hg, rfl, rfl⟩ | ⟨hg, rfl, hr, rfl⟩ := hcase
  · obtain ⟨-, -, hhold, -⟩ := hl
    have hcomplete := tick_powerUp (s := downAndIdled m s) rfl rfl hoffer hhold hg (hq.later hlater)
    exact ⟨_, (run_eq_tick _ s).trans (congrArg _ (tick_iterate_add hidle hcomplete)),
      rfl, rfl, rfl, rfl, rfl, rfl, rfl, rfl, rfl, rfl, rfl, List.append_assoc _ _ _, exec_read_low x rfl⟩
  · have hfirstPoll : Later (s.params.tHold + 3 + m + (s.params.tHold + 2)) s (powerUpFlush (downAndIdled m s)) :=
      hlater.trans ⟨rfl, rfl⟩
    have hflush := tick_powerUp_flush_read (s := downAndIdled m s) rfl rfl hoffer hl hg (hq.later hlater)
      (hr.later hfirstPoll)
    refine ⟨_, (run_eq_tick _ s).trans (congrArg _ (tick_iterate_add hidle hflush)),
      rfl, rfl, rfl, rfl, rfl, rfl, rfl, rfl, rfl, rfl, rfl, ?_, exec_read_low x rfl⟩
    simp only [afterFlushRead, answer_later hfirstPoll rfl n]
    simp [powerUpFlush, downAndIdled, idled, afterPowerDown]

end Sys2Proof.Machine
end

section
/-! # O21: READ and SETGAIN while the clock line is high (R150) -/

namespace Sys2Proof.Machine

/-- R150: READ with the clock line high, whatever its ignored argument. -/
theorem exec_read_high (u : Byte) {s : State} (h : s.sck = 1#1) : exec (.read u) s = .next (refuse errSckHigh s) :=
  execRead_high h

/-- R150: SETGAIN with the clock line high. -/
theorem exec_setgain_high (sel : Byte) {s : State} (h : s.sck = 1#1) :
    exec (.setgain sel) s = .next (refuse errSckHigh s) :=
  execSetgain_high sel h

/-- Settles O21: both are refused, and a refusal (R152) writes `ERR` and the response only; PWRUP does not look at the
clock line (R144). -/
theorem readAndSetgainRefusedWithClockHigh : Obligations.ReadAndSetgainRefusedWithClockHigh :=
  fun u s h => ⟨exec_read_high u h, exec_setgain_high u h, exec_pwrup u s⟩

end Sys2Proof.Machine
end

section
/-! # O30: the command port is looked at by an accepting step only (R26, R158) -/

namespace Sys2Proof.Machine

/-- R26: the only input level an action looks at is `dout`. -/
theorem act_congr_dout {i j : Input} (h : i.dout = j.dout) (s : State) : act i s = act j s := by
  rw [act, act, h]

/-- Two states that differ in the record the step consumes take the same step if `rst` and `dout` agree and neither step
accepts a command. -/
theorem step_congr_of_not_accepting {s s' : State} (ha : advance s' = advance s)
    (hr : (s'.inputAt 0).rst = (s.inputAt 0).rst) (hd : (s'.inputAt 0).dout = (s.inputAt 0).dout)
    (hport : s.st ≠ .idle ∨ s.wcnt ≠ 0 ∨ ((s.inputAt 0).cmdValid = 0#1 ∧ (s'.inputAt 0).cmdValid = 0#1)) :
    step s' = step s := by
  have hb : beginStep s' = beginStep s := by unfold beginStep; rw [ha]
  have hw : s'.wcnt = s.wcnt := by simpa using congrArg State.wcnt ha
  have hs : s'.st = s.st := by simpa using congrArg State.st ha
  rcases step_cases s with
    ⟨r, e⟩ | ⟨r, w, e⟩ | ⟨r, w, st, v, e⟩ | ⟨r, w, st, v, e⟩ | ⟨r, w, st, e⟩
  · rw [e, step_reset (hr.trans r), ha]
  · rw [e, step_stall (hr.trans r) (by rwa [hw]), hb]
  · obtain ⟨-, hquiet⟩ := (hport.resolve_left (not_not_intro st)).resolve_left (not_not_intro w)
    rw [e, step_nothing (hr.trans r) (hw.trans w) (hs.trans st) hquiet, hb]
  · obtain ⟨hquiet, -⟩ := (hport.resolve_left (not_not_intro st)).resolve_left (not_not_intro w)
    exact absurd (hquiet.symm.trans v) (by decide)
  · rw [e, step_act (hr.trans r) (hw.trans w) (by rwa [hs]), hb, act_congr_dout hd]

/-- Settles O30: the record `i'` agrees with `i` in what a step that accepts nothing looks at. -/
theorem commandPortIgnoredUnlessAccepting : Obligations.CommandPortIgnoredUnlessAccepting := by
  intro s i i' rest hi hr hd hport
  have hin : s.inputAt 0 = i := by simp [inputAt_eq, hi]
  subst hin
  exact step_congr_of_not_accepting (by simp [advance, hi]) hr hd hport

end Sys2Proof.Machine
end

section
/-! # O32: `ERR` and `PWR` gate nothing (R21, R157)

Two states that agree but for `ERR` and `PWR` are taken through a step side by side: it is of the same kind in both, and
so is the command or the action it runs. -/

namespace Sys2Proof.Machine

/-- Both answers are next states, and those agree but for `ERR` and `PWR`. -/
def AgreeButErrPwr (o o' : Host.Outcome State Fault Refusal) : Prop :=
  ∃ t e p, o = .next t ∧ o' = .next { t with err := e, pwr := p }

section
variable (s : State) (e : ErrCode) (p : Bit)

/-- R92, R130, R140, R144, R157: READ and SETGAIN are gated by the clock line, no command by `ERR` or `PWR`. -/
theorem exec_agreeButErrPwr (i : Instr) : AgreeButErrPwr (exec i s) (exec i { s with err := e, pwr := p }) := by
  have hsck := BitVec.eq_zero_or_eq_one s.sck
  cases i with
  | read u =>
    rcases hsck with h | h
    · exact ⟨_, e, p, exec_read_low u h, exec_read_low u h⟩
    · exact ⟨_, _, _, exec_read_high u h, exec_read_high u h⟩
  | setgain sel =>
    rcases hsck with h | h
    · exact ⟨_, e, p, exec_setgain_low sel h, exec_setgain_low sel h⟩
    · exact ⟨_, _, _, exec_setgain_high sel h, exec_setgain_high sel h⟩
  | getgain u => exact ⟨_, e, p, exec_getgain u s, exec_getgain u _⟩
  | setfmt u y b => exact ⟨_, e, p, exec_setfmt u y b s, exec_setfmt u y b _⟩
  | pwrdn u => exact ⟨_, e, p, exec_pwrdn u s, exec_pwrdn u _⟩
  | pwrup u => exact ⟨_, e, p, exec_pwrup u s, exec_pwrup u _⟩

theorem dispatchWord_agreeButErrPwr (w : CmdWord) :
    AgreeButErrPwr (dispatchWord w s) (dispatchWord w { s with err := e, pwr := p }) := by
  unfold dispatchWord
  cases decode w with
  | ok i => exact exec_agreeButErrPwr s e p i
  | error => exact ⟨_, _, _, rfl, rfl⟩

/-- R21: `PD_END` and `PU_END` write `PWR`, and no action looks at it or at `ERR`. -/
theorem act_agreeButErrPwr (i : Input) :
    AgreeButErrPwr (.next (act i s)) (.next (act i { s with err := e, pwr := p })) := by
  cases hst : s.st <;> simp only [act, hst]
  case idle => exact ⟨_, e, p, rfl, by rw [hst]⟩
  case puEnd =>
    by_cases hg : s.gain = 1#2
    · exact ⟨_, e, _, congrArg _ (doPuEnd_of_gain_one hg), congrArg _ (doPuEnd_of_gain_one hg)⟩
    · exact ⟨_, e, _, congrArg _ (doPuEnd_of_gain_ne_one hg), congrArg _ (doPuEnd_of_gain_ne_one hg)⟩
  all_goals exact ⟨_, e, _, rfl, rfl⟩

/-- R90, R156: the kind of step depends on neither register. -/
theorem step_agreeButErrPwr : AgreeButErrPwr (step s) (step { s with err := e, pwr := p }) := by
  rcases step_cases s with
    ⟨hr, hreset⟩ | ⟨hr, hw, hstall⟩ | ⟨hr, hw, hst, hv, hnothing⟩ | ⟨hr, hw, hst, hv, haccept⟩ | ⟨hr, hw, hst, hact⟩
  · exact ⟨_, _, _, hreset, step_reset hr⟩
  · exact ⟨_, e, p, hstall, step_stall hr hw⟩
  · exact ⟨_, e, p, hnothing, step_nothing hr hw hst hv⟩
  · rw [haccept, step_accept (s := { s with err := e, pwr := p }) hr hw hst hv]
    exact dispatchWord_agreeButErrPwr (beginStep s) e p _
  · rw [hact, step_act (s := { s with err := e, pwr := p }) hr hw hst]
    exact act_agreeButErrPwr (beginStep s) e p _

end

/-- Settles O32: a step takes two such states through the same kind of step, side by side. -/
theorem errAndPwrGateNothing : Obligations.ErrAndPwrGateNothing := step_agreeButErrPwr

end Sys2Proof.Machine
end

section
/-! # O49, O51, O52: what the assumptions about the chip give a command (R53, R55, R175, R176, R182) -/

namespace Sys2Proof.Machine

/-! ### A command completes (R155) -/

/-- The response, without error, comes with step `k`; after every step before it there is none and the block is busy. -/
def CompletesAfter (k : Nat) (s : State) : Prop :=
  (∃ t, run k s = .next t ∧ t.st = .idle ∧ t.rspV = 1#1 ∧ t.rspE = 0#2) ∧
    ∀ j, 1 ≤ j → j < k → ∃ t, run j s = .next t ∧ t.rspV = 0#1 ∧ busy t = 1#1

/-- R104, for READ and SETGAIN. -/
theorem completesAfter_read {s : State} {i : Instr} {g : GainCode} {n : Nat} (hl : s.params.legal) (hst : s.st = .idle)
    (hw : s.wcnt = 0) (hsck : s.sck = 0#1)
    (hi : (∃ u, i = .read u ∧ g = s.gain) ∨ (∃ sel, i = .setgain sel ∧ g = gainCode sel))
    (hq : NoReset (1 + readSteps s.params g n) s) (ho : Offers i 0 s) (hr : ReadyAfter 1 n s) :
    CompletesAfter (1 + readSteps s.params g n) s := by
  have hsteps : 1 + readSteps s.params g n = 1 + (n + 1) + (24 + g.toNat) * (s.params.tHi + s.params.tLo + 1) + 1 := by
    simp only [readSteps, framePulses, pulseSteps, Nat.add_assoc]
  rw [hsteps] at hq ⊢
  obtain ⟨⟨t, hrun, hv, he, hidle⟩, hbefore⟩ := readAndSetgainDuration s i g n hl hst hw hsck hi hq ho hr
  exact ⟨⟨t, hrun, hidle, hv, he⟩, hbefore⟩

/-- R146, R181: PWRUP with a flush read. -/
theorem completesAfter_powerUp {s : State} {u : Byte} {n : Nat} (hl : s.params.legal) (hst : s.st = .idle)
    (hw : s.wcnt = 0) (hg : s.gain ≠ 1#2) (hq : NoReset (s.params.tHold + 2 + readSteps s.params s.gain n) s)
    (ho : Offers (.pwrup u) 0 s) (hr : ReadyAfter (s.params.tHold + 2) n s) :
    CompletesAfter (s.params.tHold + 2 + readSteps s.params s.gain n) s := by
  obtain ⟨-, -, hflush⟩ := powerUpHoldsTheClockLowAndFlushes s u hl hst hw ho
  obtain ⟨t, hrun, ht, -, hbefore⟩ := hflush hg n hq hr
  exact ⟨⟨t, hrun, congrArg State.st ht, congrArg State.rspV ht, congrArg State.rspE ht⟩, hbefore⟩

/-! ### The wait for ready is bounded (R53, R182) -/

/-- A chip that is ready within the bound has a first step at which it is. -/
theorem EnvReady.exists_readyAfter {m b : Nat} {s : State} (h : EnvReady m b s) : ∃ n ≤ b, ReadyAfter m n s := by
  obtain ⟨k, hk, hzero⟩ := h
  have hready : ∃ n, (s.inputAt (m + n)).dout = 0#1 := ⟨k, hzero⟩
  exact ⟨Nat.find hready, (Nat.find_min' hready hzero).trans hk,
    fun j hj => bit_ne_zero.1 (Nat.find_min hready hj), Nat.find_spec hready⟩

theorem readSteps_mono (p : Params) (g : GainCode) {n b : Nat} (h : n ≤ b) : readSteps p g n ≤ readSteps p g b := by
  unfold readSteps
  omega

/-- Settles O49: the command completes with the read whose wait ends at the first poll answered 0, which the bound
allows. -/
theorem readCompletesWhenTheChipIsReady : Obligations.ReadCompletesWhenTheChipIsReady := by
  intro s i g m b hl hst hw hi hq ho henv
  obtain ⟨n, hnb, hr⟩ := henv.exists_readyAfter
  have hbound : m + readSteps s.params g n ≤ m + readSteps s.params g b :=
    Nat.add_le_add_left (readSteps_mono s.params g hnb) m
  have hqn := hq.mono hbound
  refine ⟨m + readSteps s.params g n, ?_, hbound, ?_⟩
  · unfold readSteps
    omega
  · rcases hi with ⟨u, rfl, rfl, rfl, hsck⟩ | ⟨sel, rfl, rfl, rfl, hsck⟩ | ⟨u, rfl, rfl, hg, rfl⟩
    · exact completesAfter_read hl hst hw hsck (.inl ⟨u, rfl, rfl⟩) hqn ho hr
    · exact completesAfter_read hl hst hw hsck (.inr ⟨sel, rfl, rfl⟩) hqn ho hr
    · exact completesAfter_powerUp hl hst hw hg hqn ho hr

/-! ### A flush read selects the gain of the next frame (R55) -/

/-- R55: the pulses of a frame of gain code `g` select `g`. -/
theorem EnvGain.selects {pulses : Nat → Nat} {gainOf : Nat → GainCode} {f : Nat} {g : GainCode}
    (h : EnvGain pulses gainOf) (hg : g = 1#2 ∨ g = 2#2 ∨ g = 3#2) (hf : pulses f = framePulses g) :
    gainOf (f + 1) = g := by
  have hlow : 25 ≤ framePulses g := by rcases hg with rfl | rfl | rfl <;> decide
  have hselected := h f (hf ▸ hlow) (hf ▸ framePulses_le g)
  rw [hf] at hselected
  exact (BitVec.eq_of_toNat_eq (Nat.add_left_cancel hselected)).symm

/-- R103: after line events `es` without a rising edge, a flush read makes those of its frame. -/
theorem risingEdges_afterFlushRead {s u : State} {es : List LineEvent} (n : Nat) (hu : u.trace = s.trace ++ es)
    (hes : risingEdges es = 0) :
    risingEdges ((afterFlushRead n u).trace.drop s.trace.length) = framePulses u.gain := by
  rw [afterFlushRead, hu, List.append_assoc, List.drop_left, risingEdges, List.count_append, count_set_readTrace,
    ← risingEdges, hes, Nat.zero_add]

/-- Settles O51: the flush read of SETGAIN has the pulses of the new gain code (R130). -/
theorem setgainSelectsTheNextGain : Obligations.SetgainSelectsTheNextGain := by
  intro s sel n hl hst hw hsck hq ho hr
  refine ⟨_, run_setgain_command hl hst hw hsck hq ho hr, fun pulses gainOf f henv hf => ?_⟩
  exact henv.selects (gainCode_mem sel) (hf.trans (risingEdges_afterFlushRead n (List.append_nil _).symm rfl))

/-- Settles O52: the flush read of PWRUP has the pulses of the configured gain code (R146), and the edge before it is a
falling one (R145). -/
theorem powerUpReselectsTheGain : Obligations.PowerUpReselectsTheGain := by
  rintro s u n ⟨hlaws, -, hl, -⟩ hst hg ho hq hr
  have hflush := tick_powerUp_flush_read hst (hlaws.idleWait hst) ho hl hg hq (hr.later ⟨rfl, rfl⟩)
  refine ⟨_, (run_eq_tick _ s).trans (congrArg _ hflush), rfl, fun pulses gainOf f henv hf => ?_⟩
  exact henv.selects hlaws.gain (hf.trans (risingEdges_afterFlushRead n rfl rfl))

end Sys2Proof.Machine
end
